-- ==== Sys2Proof/Word.lean ====
section
/-! DEFINITION. The two widths of HDSPBUS that the spec treats as bits: the byte of the display bus (20 R64) and the
32-bit command word (30 R90). -/

namespace Sys2Proof

/-- One byte of the display bus: an address, or data (spec/20_memory.md R64). -/
abbrev Byte := BitVec 8

/-- One command word, `cmd[31:0]` (spec/30_encoding.md R90). -/
abbrev Word := BitVec 32

end Sys2Proof
end

