-- ==== Sys2Proof/Syntax.lean ====
section
/-! DEFINITION. The twelve commands of HDSPBUS (30 R92), one constructor per row of spec/opcode_table.json, with the
operands of 30 R94 to R96. -/

namespace Sys2Proof

/-- The five logical register spaces (20 R61), SP values 0 to 4 (30 R94). -/
inductive Space where
  | udcAddr
  | udcRam
  | ctrl
  | char
  | flash
  deriving DecidableEq, Repr

/-- A target (30 R95): one module, TS = 0x00 to 0xFE, or all modules, TS = 0xFF. -/
inductive Target where
  | one (m : Fin 255)
  | all
  deriving DecidableEq, Repr

/-- The commands (30 R92, R93). -/
inductive Instr where
  /-- WRREG: write a physical register (40 R142). -/
  | wrreg (tgt : Target) (ad dt : Byte)
  /-- RDREG: read a physical register (40 R143). -/
  | rdreg (tgt : Target) (ad : Byte)
  /-- WRLOG: write a logical register (41 R177). -/
  | wrlog (sp : Space) (tgt : Target) (ix dt : Byte)
  /-- WRPOS: write at a logical position (41 R178). -/
  | wrpos (sp : Space) (pos : BitVec 16) (dt : Byte)
  /-- SETBRI: set brightness (42 R215). -/
  | setbri (br : BitVec 3)
  /-- SETFLEN: set flash-enable (42 R216). -/
  | setflen (v : Bool)
  /-- SETBLEN: set blink-enable (42 R217). -/
  | setblen (v : Bool)
  /-- SETCLR: set the clear field (42 R218). -/
  | setclr (v : Bool)
  /-- SELFTEST: set or clear one module's self-test request (42 R219). -/
  | selftest (tgt : Target) (v : Bool)
  /-- RDTEST: read one module's self-test result (42 R220). -/
  | rdtest (tgt : Target)
  /-- LDFMAP: load eight bits of the flash bitmap (41 R179). -/
  | ldfmap (k : BitVec 16) (dt : Byte)
  /-- FLASHMAP: write the flash bitmap to the display (41 R180). -/
  | flashmap
  deriving DecidableEq, Repr

end Sys2Proof
end

