-- ==== Sys2Proof/WellFormed.lean ====
section
/-! DEFINITION. Which terms of `Instr` are commands of 30 R93. The types of the operands carry every range but one:
WRPOS takes only the two spaces indexed by local position (30 R94, R99). -/

namespace Sys2Proof

/-- The two spaces WRPOS accepts: CHAR and FLASH (30 R94). -/
def Space.isLocal : Space → Bool
  | .udcAddr => false
  | .udcRam => false
  | .ctrl => false
  | .char => true
  | .flash => true

/-- The extra condition of each row of 30 R93 that the operand types do not carry already. -/
def Instr.wf : Instr → Bool
  | .wrreg _ _ _ => true
  | .rdreg _ _ => true
  | .wrlog _ _ _ _ => true
  | .wrpos sp _ _ => sp.isLocal
  | .setbri _ => true
  | .setflen _ => true
  | .setblen _ => true
  | .setclr _ => true
  | .selftest _ _ => true
  | .rdtest _ => true
  | .ldfmap _ _ => true
  | .flashmap => true

end Sys2Proof
end

