-- ==== Sys2Proof/Decode.lean ====
section
/-! DEFINITION. The decoder of 30 R93 and R97, total on every 32-bit word, and after it the encoder. -/

namespace Sys2Proof

/-! ### Fields of a command word (30 R91, R96) -/

/-- OP = cmd[31:28]. -/
def opField (w : Word) : BitVec 4 := w.extractLsb' 28 4
/-- SP = cmd[27:24]. -/
def spField (w : Word) : BitVec 4 := w.extractLsb' 24 4
/-- TS = cmd[23:16]. -/
def tsField (w : Word) : Byte := w.extractLsb' 16 8
/-- AD or IX = cmd[15:8]. -/
def adField (w : Word) : Byte := w.extractLsb' 8 8
/-- DT = cmd[7:0]. -/
def dtField (w : Word) : Byte := w.extractLsb' 0 8
/-- POS or K = cmd[23:8]. -/
def posField (w : Word) : BitVec 16 := w.extractLsb' 8 16
/-- BR = cmd[2:0]. -/
def brField (w : Word) : BitVec 3 := w.extractLsb' 0 3
/-- V = cmd[0]. -/
def vField (w : Word) : Bool := w.getLsbD 0

/-- The space an SP value names (30 R94); 5 to 15 name none. -/
def spaceOf (sp : BitVec 4) : Option Space :=
  match sp.toNat with
  | 0 => some .udcAddr
  | 1 => some .udcRam
  | 2 => some .ctrl
  | 3 => some .char
  | 4 => some .flash
  | _ => none

/-- The target a TS value names (30 R95). -/
def targetOf (ts : Byte) : Target :=
  if h : ts.toNat < 255 then .one ⟨ts.toNat, h⟩ else .all

/-! ### The decoder -/

/-- Why a word is ILLEGAL (30 R98, R99). The block records only the code ILLEGAL (60 R253). -/
inductive Illegal where
  /-- OP is 0x0, 0xD, 0xE or 0xF (30 R98). -/
  | reservedOp
  /-- A must-be-zero field is not zero (30 R99). -/
  | nonzeroField
  /-- SP > 4 in WRLOG, or SP not 3 or 4 in WRPOS (30 R99). -/
  | badSpace
  deriving DecidableEq, Repr

/-- A row of the table of 30 R93: the match/mask pair, and what the row's fields give (nothing where the extra
condition fails). -/
structure Row where
  mask  : Word
  value : Word
  build : Word → Option Instr

/-- The word has the row's fixed bits. -/
def Row.hits (r : Row) (w : Word) : Bool := w &&& r.mask == r.value

/-- The table of 30 R93, in its order. -/
def rows : List Row := [
  { mask := 0xFF000000, value := 0x10000000
    build := fun w => some (.wrreg (targetOf (tsField w)) (adField w) (dtField w)) },
  { mask := 0xFF0000FF, value := 0x20000000
    build := fun w => some (.rdreg (targetOf (tsField w)) (adField w)) },
  { mask := 0xF0000000, value := 0x30000000
    build := fun w => (spaceOf (spField w)).map fun sp => .wrlog sp (targetOf (tsField w)) (adField w) (dtField w) },
  { mask := 0xF0000000, value := 0x40000000
    build := fun w => ((spaceOf (spField w)).filter Space.isLocal).map fun sp => .wrpos sp (posField w) (dtField w) },
  { mask := 0xFFFFFFF8, value := 0x50000000
    build := fun w => some (.setbri (brField w)) },
  { mask := 0xFFFFFFFE, value := 0x60000000
    build := fun w => some (.setflen (vField w)) },
  { mask := 0xFFFFFFFE, value := 0x70000000
    build := fun w => some (.setblen (vField w)) },
  { mask := 0xFFFFFFFE, value := 0x80000000
    build := fun w => some (.setclr (vField w)) },
  { mask := 0xFF00FFFE, value := 0x90000000
    build := fun w => some (.selftest (targetOf (tsField w)) (vField w)) },
  { mask := 0xFF00FFFF, value := 0xA0000000
    build := fun w => some (.rdtest (targetOf (tsField w))) },
  { mask := 0xFF000000, value := 0xB0000000
    build := fun w => some (.ldfmap (posField w) (dtField w)) },
  { mask := 0xFFFFFFFF, value := 0xC0000000
    build := fun _ => some .flashmap } ]

/-- The OP values of 30 R98. -/
def reservedOps : List (BitVec 4) := [0x0, 0xD, 0xE, 0xF]

/-- Decode a command word (30 R97): the first row that the word matches and whose extra condition holds, else ILLEGAL,
with the reason by name. -/
def decode (w : Word) : Except Illegal Instr :=
  match rows.findSome? fun r => if r.hits w then r.build w else none with
  | some i => .ok i
  | none =>
    if reservedOps.contains (opField w) then .error .reservedOp
    else if opField w == 3 || opField w == 4 then .error .badSpace
    else .error .nonzeroField

/-! ### The encoder -/

/-- SP of a space (30 R94). -/
def Space.code : Space → BitVec 4
  | .udcAddr => 0
  | .udcRam => 1
  | .ctrl => 2
  | .char => 3
  | .flash => 4

/-- TS of a target (30 R95). -/
def Target.code : Target → Byte
  | .one m => BitVec.ofNat 8 m.val
  | .all => 0xFF

/-- One bit. -/
def bit1 (v : Bool) : BitVec 1 := BitVec.ofBool v

/-- The word of a command, its fields laid out from bit 31 down as 30 R91 and R93 place them. -/
def encode : Instr → Word
  | .wrreg t ad dt => 0x1#4 ++ 0#4 ++ t.code ++ ad ++ dt
  | .rdreg t ad => 0x2#4 ++ 0#4 ++ t.code ++ ad ++ 0#8
  | .wrlog sp t ix dt => 0x3#4 ++ sp.code ++ t.code ++ ix ++ dt
  | .wrpos sp pos dt => 0x4#4 ++ sp.code ++ pos ++ dt
  | .setbri br => 0x5#4 ++ 0#25 ++ br
  | .setflen v => 0x6#4 ++ 0#27 ++ bit1 v
  | .setblen v => 0x7#4 ++ 0#27 ++ bit1 v
  | .setclr v => 0x8#4 ++ 0#27 ++ bit1 v
  | .selftest t v => 0x9#4 ++ 0#4 ++ t.code ++ 0#15 ++ bit1 v
  | .rdtest t => 0xA#4 ++ 0#4 ++ t.code ++ 0#16
  | .ldfmap k dt => 0xB#4 ++ 0#4 ++ k ++ dt
  | .flashmap => 0xC#4 ++ 0#28

/-! ### The word of an opcode-table row -/

/-- The command word whose bits are the low `nbits` bits of `w`, every bit above them 0. The word is delivered whole on
`cmd[31:0]`, so it has no byte order (20 R65). -/
def tableWord (nbits w : Nat) : Word := BitVec.ofNat 32 (w % 2 ^ nbits)

/-- The instruction the decoder reads from an instruction whose bits are `w` (numbered as spec/opcode_table.json numbers
them); nothing where it refuses, and nothing for more than the one 32-bit word a command has (30 R90). -/
def decodeTableWord (nbits w : Nat) : Option Instr :=
  if w % 2 ^ nbits < 2 ^ 32 then (decode (tableWord nbits w)).toOption else none

end Sys2Proof
end

