-- ==== Sys2Proof/Config.lean ====
section
/-! DEFINITION. The configuration record of 00 R6, its constraints (00 R7), the default register address table
(20 R74), the default control-word layout (42 R211), the vector configuration V (92 D39), and the one free value of the
model: the byte the display modules drive on `d_in` at an edge for which the state gives no input (40 R136). -/

namespace Sys2Proof

/-- RAT, the register address table (20 R72): the address of every legal (space, index) pair of 20 R61. Entry `i` of a
list is the address of index `i`. -/
structure RegTable where
  udcAddr : Byte
  udcRam  : List Byte
  ctrl    : Byte
  char    : List Byte
  flash   : List Byte
  deriving DecidableEq, Repr

/-- Every address of the table, once per legal pair. -/
def RegTable.addresses (t : RegTable) : List Byte :=
  t.udcAddr :: t.ctrl :: (t.udcRam ++ t.char ++ t.flash)

/-- CWL, the positions of five fields of the control word (00 R6, 42 R211). -/
structure CwLayout where
  fe : Nat
  be : Nat
  tr : Nat
  st : Nat
  cl : Nat
  deriving DecidableEq, Repr

/-- The five positions. -/
def CwLayout.positions (l : CwLayout) : List Nat := [l.fe, l.be, l.tr, l.st, l.cl]

/-- The configuration record (00 R6). Dwells are counts of clock ticks. The four times are in picoseconds
[DESIGN CHOICE, log 14: the spec's unit is the nanosecond, and a clock period need not be a whole number of them]. -/
structure Config where
  /-- NMOD, the number of modules. -/
  nmod   : Nat
  /-- W, the characters per module. -/
  w      : Nat
  /-- BCAST: one bus cycle may assert several chip-selects. -/
  bcast  : Bool
  rat    : RegTable
  cwl    : CwLayout
  nAS    : Nat
  nCW    : Nat
  nWP    : Nat
  nWH    : Nat
  nAH    : Nat
  nDZ    : Nat
  nRS    : Nat
  tTick  : Nat
  tWpMin : Nat
  tRsMin : Nat
  tAsMin : Nat
  deriving DecidableEq, Repr

/-- TW, the total width (00 R6). -/
def Config.tw (c : Config) : Nat := c.nmod * c.w

/-- The number of eight-bit chunks of FMAP, `ceil(TW / 8)` (00 R9, 41 R179). -/
def Config.chunks (c : Config) : Nat := (c.tw + 7) / 8

/-- No element occurs twice. -/
def allDistinct {α : Type} [BEq α] : List α → Bool
  | [] => true
  | x :: xs => !xs.contains x && allDistinct xs

/-- The ranges of NMOD, W and TW (00 R7). -/
def Config.sizesOk (c : Config) : Bool :=
  decide (1 ≤ c.nmod ∧ c.nmod ≤ 255 ∧ 1 ≤ c.w ∧ c.w ≤ 256 ∧ c.tw ≤ 65535)

/-- Every dwell is at least one tick (00 R7). -/
def Config.dwellsOk (c : Config) : Bool :=
  decide (1 ≤ c.nAS ∧ 1 ≤ c.nCW ∧ 1 ≤ c.nWP ∧ 1 ≤ c.nWH ∧ 1 ≤ c.nAH ∧ 1 ≤ c.nDZ ∧ 1 ≤ c.nRS)

/-- The clock period is positive (00 R6) and the dwells meet the device minimums (00 R7). -/
def Config.timingOk (c : Config) : Bool :=
  decide (0 < c.tTick ∧ c.tWpMin ≤ c.nWP * c.tTick ∧ c.tRsMin ≤ c.nRS * c.tTick ∧ c.tAsMin ≤ c.nAS * c.tTick)

/-- RAT has an address for each legal pair of 20 R61 and is injective over them (00 R7). -/
def Config.ratOk (c : Config) : Bool :=
  decide (c.rat.udcRam.length = 7 ∧ c.rat.char.length = c.w ∧ c.rat.flash.length = c.w) &&
    allDistinct c.rat.addresses

/-- The five CWL positions are distinct and lie in 3..7 (00 R7). -/
def Config.cwlOk (c : Config) : Bool :=
  c.cwl.positions.all (fun p => decide (3 ≤ p ∧ p ≤ 7)) && allDistinct c.cwl.positions

/-- The constraints of 00 R7. "A configuration that violates any of these is not a configuration of HDSPBUS, and a
model refuses it." -/
def Config.ok (c : Config) : Bool :=
  c.sizesOk && c.dwellsOk && c.timingOk && c.ratOk && c.cwlOk

/-- The default RAT (20 R74), for `w ≤ 8`. PRESUMED by the spec itself (93 G1, log 15). -/
def RegTable.default (w : Nat) : RegTable where
  udcAddr := 0x20
  udcRam  := (List.range 7).map fun r => BitVec.ofNat 8 (0x28 + r)
  ctrl    := 0x30
  char    := (List.range w).map fun i => BitVec.ofNat 8 (0x38 + i)
  flash   := (List.range w).map fun i => BitVec.ofNat 8 i

/-- The default CWL (42 R211). PRESUMED by the spec itself (93 G2, log 15). -/
def CwLayout.default : CwLayout := { fe := 3, be := 4, tr := 5, st := 6, cl := 7 }

/-- The vector configuration V (92 D39): NMOD = 2, W = 8, BCAST = true, default RAT and CWL, every dwell 1 except
N_WP = N_RS = 2. T_TICK = 50 ns, T_WP_MIN = 100 ns (95 E9); T_RS_MIN and T_AS_MIN are OPEN and stand at 0
[DESIGN CHOICE, log 2]. -/
def Config.vectors : Config where
  nmod := 2
  w := 8
  bcast := true
  rat := RegTable.default 8
  cwl := CwLayout.default
  nAS := 1
  nCW := 1
  nWP := 2
  nWH := 1
  nAH := 1
  nDZ := 1
  nRS := 2
  tTick := 50000
  tWpMin := 100000
  tRsMin := 0
  tAsMin := 0

/-- The byte on `d_in` at the `n`-th edge for which the state lists no input: a free value, nothing constrains it
(40 R136, 92 D35, 93 I3; log 6). It has no body. -/
opaque Config.freeDin : Nat → Byte

end Sys2Proof
end

