-- ==== Sys2Proof/Machine/State.lean ====
section
/-! DEFINITION. The state of HDSPBUS as plain data (10 R22), its reset values, and the two ways a step can stop. -/

namespace Sys2Proof.Machine

/-- The error codes LASTERR takes (60 R251). Codes 5 to 7 never occur (93 I8), so they have no constructor. -/
inductive CmdErr where
  | none
  | illegal
  | badTarget
  | posRange
  | badIndex
  deriving DecidableEq, Repr

/-- CWG, the global copy of four control-word fields (10 R31). -/
structure Cwg where
  br : BitVec 3
  fe : Bool
  be : Bool
  cl : Bool
  deriving DecidableEq, Repr

/-- PH, the sequencer phase (10 R40). -/
inductive Phase where
  | idle
  | w1 | w2 | w3 | w4 | w5
  | r1 | r2 | r3 | r4 | r5 | r6 | r7 | r8
  deriving DecidableEq, Repr

/-- The kind of a read cycle (40 R130). -/
inductive ReadKind where
  | raw
  | test
  deriving DecidableEq, Repr

/-- A bus-cycle descriptor (40 R130): `WD(a, v, M)`, with the module set `M` as its members in ascending order, or
`RD(a, m, k)`. -/
inductive Desc where
  | wd (a v : Byte) (mods : List Nat)
  | rd (a : Byte) (m : Nat) (k : ReadKind)
  deriving DecidableEq, Repr

/-- The block's inputs as they stand before one edge: `rst` (70 R280), `cmd_valid` and `cmd` (10 R30), `d_in`
(10 R38). -/
structure EdgeInput where
  rst      : Bool
  cmdValid : Bool
  cmd      : Word
  dIn      : Byte
  deriving DecidableEq, Repr

/-- The state. STATUS.BUSY is 1 exactly when PH is not IDLE (10 R24) and is not stored beside it (log 9). -/
structure State where
  /-- The configuration (00 R6): not state of the block (10 R44), never changed by a step (log 1). -/
  cfg     : Config
  /-- STATUS.ERRSEEN (10 R25). -/
  errSeen : Bool
  /-- STATUS.LASTERR (10 R26). -/
  lastErr : CmdErr
  /-- STATUS.TR (10 R27). -/
  tr      : Bool
  /-- STATUS.RDATA (10 R29). -/
  rdata   : Byte
  /-- CWG (10 R31). -/
  cwg     : Cwg
  /-- STREQ, entry `m` for module `m` (10 R32). -/
  streq   : List Bool
  /-- FMAP, entry `j` for FMAP[j] (10 R39). -/
  fmap    : List Bool
  /-- A_OUT (10 R34). -/
  aOut    : Byte
  /-- D_OUT (10 R35). -/
  dOut    : Byte
  /-- D_OE (10 R35). -/
  dOe     : Bool
  /-- CE_N, entry `m` for module `m`, active low (10 R36). -/
  ceN     : List Bool
  /-- WR_N, active low (10 R37). -/
  wrN     : Bool
  /-- RD_N, active low (10 R37). -/
  rdN     : Bool
  /-- PH (10 R40). -/
  ph      : Phase
  /-- CNT (10 R41). -/
  cnt     : Nat
  /-- CUR (10 R42). -/
  cur     : Option Desc
  /-- CQ (10 R42). -/
  cq      : List Desc
  /-- The model's own: the inputs at the edges to come, the next edge's first (log 4). -/
  inputs  : List EdgeInput
  /-- The model's own: how many edges had no entry in `inputs` (log 6). -/
  draws   : Nat
  deriving DecidableEq, Repr

/-- Why the machine stops. -/
inductive Fault where
  /-- Raised by a step of the sequencer when PH is not IDLE and CUR is not a descriptor that has the step PH. No run from
  reset reaches such a state (10 R40 to R42). Safe: the model stops where the spec describes nothing (log 10). -/
  | sequencerCorrupt
  deriving DecidableEq, Repr

/-- Why the model has no next state. -/
inductive Refusal where
  /-- Raised by an arm of `exec` whose instruction has no meaning yet. Safe: nothing is claimed. No arm raises it. -/
  | notModelled (mnemonic : String)
  /-- Raised by every step and every command when the configuration violates 00 R7: "A configuration that violates any
  of these is not a configuration of HDSPBUS, and a model refuses it." Safe: nothing is claimed (log 3). -/
  | badConfig
  deriving DecidableEq, Repr

/-- The state right after reset under configuration `c`: every item of 10 R22 at its reset value. -/
def State.resetOf (c : Config) : State where
  cfg := c
  errSeen := false
  lastErr := .none
  tr := false
  rdata := 0
  cwg := { br := 0, fe := false, be := false, cl := false }
  streq := List.replicate c.nmod false
  fmap := List.replicate c.tw false
  aOut := 0
  dOut := 0
  dOe := true
  ceN := List.replicate c.nmod true
  wrN := true
  rdN := true
  ph := .idle
  cnt := 0
  cur := none
  cq := []
  inputs := []
  draws := 0

/-- The machine right after reset (10 R22, 70 R280), under the vector configuration V (92 D39; DESIGN CHOICE, log 2), with
no input listed (log 4). -/
def State.reset : State := State.resetOf Config.vectors

end Sys2Proof.Machine
end

