-- ==== Sys2Proof/Machine/Operands.lean ====
section
/-! DEFINITION. The combinational functions of the block: targets (41 R174, R175), positions (41 R171), logical register
addresses (41 R176), the control-word byte (42 R211), the global write-out (42 R214), and the bits of the flash bitmap
(10 R39, 41 R179). They have no state. -/

namespace Sys2Proof.Machine

/-! ### Targets -/

/-- `TargetOK(TS)` (41 R174): one existing module, or all modules. -/
def targetOk (c : Config) : Target → Bool
  | .one m => decide (m.val < c.nmod)
  | .all => true

/-- The check of RDREG, SELFTEST and RDTEST: one existing module, 0xFF included among the failures (40 R143, 42 R219,
R220). -/
def singleOk (c : Config) : Target → Bool
  | .one m => decide (m.val < c.nmod)
  | .all => false

/-- The number TS encodes (30 R95). -/
def targetNumber : Target → Nat
  | .one m => m.val
  | .all => 255

/-- `ALLMASK` (00 R13). -/
def allMods (c : Config) : List Nat := List.range c.nmod

/-- `ExpandW(a, v, TS)` (41 R175). -/
def expandW (c : Config) (a v : Byte) : Target → List Desc
  | .one m => [.wd a v [m.val]]
  | .all => if c.bcast then [.wd a v (allMods c)] else (allMods c).map fun m => .wd a v [m]

/-! ### Positions -/

/-- `Resolve(p)`: the module index and the local address (41 R171). -/
def resolve (c : Config) (p : Nat) : Nat × Nat := (p / c.w, p % c.w)

/-! ### Logical registers -/

/-- `IndexOK(space, ix)` (41 R176). -/
def indexOk (c : Config) (sp : Space) (ix : Nat) : Bool :=
  match sp with
  | .udcAddr => decide (ix = 0)
  | .udcRam => decide (ix ≤ 6)
  | .ctrl => decide (ix = 0)
  | .char => decide (ix < c.w)
  | .flash => decide (ix < c.w)

/-- `RegAddr(space, ix) = RAT(space, ix)` (41 R176). It is used only where `indexOk` holds and the configuration is a
legal one, so the list has the entry; outside that the value is never used (log 13). -/
def regAddr (c : Config) (sp : Space) (ix : Nat) : Byte :=
  match sp with
  | .udcAddr => c.rat.udcAddr
  | .udcRam => c.rat.udcRam.getD ix 0
  | .ctrl => c.rat.ctrl
  | .char => c.rat.char.getD ix 0
  | .flash => c.rat.flash.getD ix 0

/-! ### The control word -/

/-- `b[i] <- v` on a byte. -/
def setBit (b : Byte) (i : Nat) (v : Bool) : Byte :=
  if v then b ||| (1#8 <<< i) else b &&& ~~~(1#8 <<< i)

/-- STREQ[m] (10 R32). -/
def State.selfTestReq (s : State) (m : Nat) : Bool := s.streq.getD m false

/-- `CWbyte(m)` (42 R211), field by field in the rule's order. -/
def cwByte (s : State) (m : Nat) : Byte :=
  let b := s.cwg.br.setWidth 8
  let b := setBit b s.cfg.cwl.fe s.cwg.fe
  let b := setBit b s.cfg.cwl.be s.cwg.be
  let b := setBit b s.cfg.cwl.tr false
  let b := setBit b s.cfg.cwl.st (s.selfTestReq m)
  setBit b s.cfg.cwl.cl s.cwg.cl

/-- All STREQ bits are equal (the test of 42 R214). -/
def uniformReq (s : State) : Bool := (allMods s.cfg).all fun m => s.selfTestReq m == s.selfTestReq 0

/-- `GlobalWrite()` (42 R214). -/
def globalWrite (s : State) : List Desc :=
  let a := regAddr s.cfg .ctrl 0
  if uniformReq s then expandW s.cfg a (cwByte s 0) .all
  else (allMods s.cfg).map fun m => .wd a (cwByte s m) [m]

/-! ### The flash bitmap -/

/-- FMAP[j] (10 R39). -/
def State.flashBit (s : State) (j : Nat) : Bool := s.fmap.getD j false

/-- The loop of LDFMAP (41 R179): `for i in 0..7: if 8*K + i < TW: FMAP[8*K + i] <- DT[i]`. -/
def loadChunk (c : Config) (k : Nat) (dt : Byte) (fmap : List Bool) : List Bool :=
  (List.range 8).foldl (fun f i => if 8 * k + i < c.tw then f.set (8 * k + i) (dt.getLsbD i) else f) fmap

/-- `zext_8` of one bit (41 R180). -/
def flashByte (v : Bool) : Byte := if v then 1 else 0

/-- The write of position `p` that FLASHMAP emits (41 R180). -/
def flashWrite (s : State) (p : Nat) : Desc :=
  .wd (regAddr s.cfg .flash (resolve s.cfg p).2) (flashByte (s.flashBit (s.cfg.tw - 1 - p))) [(resolve s.cfg p).1]

end Sys2Proof.Machine
end

