-- ==== Sys2Proof/Machine/Ops.lean ====
section
/-! DEFINITION. The operations every step is built from: the inputs of an edge, the bus steps (40 R131, R134), the step
engine (40 R137), the rejection of a command (60 R250), acceptance (40 R138), and the reset edge (70 R280). -/

namespace Sys2Proof.Machine

/-! ### The inputs of an edge -/

/-- The inputs before the next edge. Where the state lists none, the host is silent and `d_in` is a free value
(log 5, log 6). -/
def State.pins (s : State) : EdgeInput :=
  match s.inputs with
  | [] => { rst := false, cmdValid := false, cmd := 0, dIn := Config.freeDin s.draws }
  | i :: _ => i

/-- The edge passes: its inputs are used up. -/
def State.tick (s : State) : State :=
  match s.inputs with
  | [] => { s with draws := s.draws + 1 }
  | _ :: rest => { s with inputs := rest }

/-! ### The bus steps -/

/-- The step after a step of a cycle; none after the last (W5, R8) and none for IDLE (40 R131, R134). -/
def Phase.next? : Phase → Option Phase
  | .idle => none
  | .w1 => some .w2
  | .w2 => some .w3
  | .w3 => some .w4
  | .w4 => some .w5
  | .w5 => none
  | .r1 => some .r2
  | .r2 => some .r3
  | .r3 => some .r4
  | .r4 => some .r5
  | .r5 => some .r6
  | .r6 => some .r7
  | .r7 => some .r8
  | .r8 => none

/-- The dwell of a step (the tables of 40 R131 and R134); IDLE has none. -/
def Phase.dwell (c : Config) : Phase → Nat
  | .idle => 0
  | .w1 => c.nAS
  | .w2 => c.nCW
  | .w3 => c.nWP
  | .w4 => c.nWH
  | .w5 => c.nAH
  | .r1 => c.nAS
  | .r2 => c.nDZ
  | .r3 => c.nCW
  | .r4 => c.nRS
  | .r5 => 1
  | .r6 => c.nWH
  | .r7 => c.nDZ
  | .r8 => c.nAH

/-- The first step of a cycle: W1 or R1 (40 R137). -/
def Desc.first : Desc → Phase
  | .wd _ _ _ => .w1
  | .rd _ _ _ => .r1

/-- The steps of a write cycle. -/
def Phase.isWrite : Phase → Bool
  | .w1 | .w2 | .w3 | .w4 | .w5 => true
  | .idle | .r1 | .r2 | .r3 | .r4 | .r5 | .r6 | .r7 | .r8 => false

/-- The steps of a read cycle. -/
def Phase.isRead : Phase → Bool
  | .r1 | .r2 | .r3 | .r4 | .r5 | .r6 | .r7 | .r8 => true
  | .idle | .w1 | .w2 | .w3 | .w4 | .w5 => false

/-- `p` is a step of the descriptor's cycle. -/
def Desc.hasStep : Desc → Phase → Bool
  | .wd _ _ _, p => p.isWrite
  | .rd _ _ _, p => p.isRead

/-- `CE_N[m] <- 0 for every m in M (others stay 1)` (40 R131 W2, R134 R3). -/
def selectModules (mods : List Nat) (ceN : List Bool) : List Bool :=
  mods.foldl (fun c m => c.set m false) ceN

/-- `CE_N <- all 1` (40 R131 W5, R134 R7). -/
def releaseModules (c : Config) : List Bool := List.replicate c.nmod true

/-- The action of a cycle's first step: W1 drives address and data, R1 drives the address (40 R131, R134). -/
def driveBus (d : Desc) (s : State) : State :=
  match d with
  | .wd a v _ => { s with aOut := a, dOut := v }
  | .rd a _ _ => { s with aOut := a }

/-- The sample step R5 (40 R134): RDATA takes `d_in`; a TEST read also copies bit CWL.TR of it to TR. -/
def sample (k : ReadKind) (dIn : Byte) (s : State) : State :=
  match k with
  | .raw => { s with rdata := dIn }
  | .test => { s with rdata := dIn, tr := dIn.getLsbD s.cfg.cwl.tr }

/-- The action of step `p` of the cycle of `d`, at an edge before which `d_in` is `dIn` (the tables of 40 R131 and R134).
A pair of a cycle and a step it does not have has no action; the step engine never performs one. -/
def performStep (dIn : Byte) (d : Desc) (p : Phase) (s : State) : State :=
  match d, p with
  | .wd a v mods, .w1 => driveBus (.wd a v mods) s
  | .wd _ _ mods, .w2 => { s with ceN := selectModules mods s.ceN }
  | .wd _ _ _, .w3 => { s with wrN := false }
  | .wd _ _ _, .w4 => { s with wrN := true }
  | .wd _ _ _, .w5 => { s with ceN := releaseModules s.cfg }
  | .rd a m k, .r1 => driveBus (.rd a m k) s
  | .rd _ _ _, .r2 => { s with dOe := false }
  | .rd _ m _, .r3 => { s with ceN := selectModules [m] s.ceN }
  | .rd _ _ _, .r4 => { s with rdN := false }
  | .rd _ _ k, .r5 => sample k dIn s
  | .rd _ _ _, .r6 => { s with rdN := true }
  | .rd _ _ _, .r7 => { s with ceN := releaseModules s.cfg }
  | .rd _ _ _, .r8 => { s with dOe := true }
  | _, _ => s

/-- Enter step `p` of the cycle of `d`: PH, its action, CNT (40 R137). -/
def enterStep (dIn : Byte) (d : Desc) (p : Phase) (s : State) : State :=
  { performStep dIn d p s with ph := p, cnt := p.dwell s.cfg, cur := some d }

/-- Start the cycle of `d` with its first step: CUR, PH, the action, CNT (40 R137, R138). -/
def startCycle (d : Desc) (s : State) : State :=
  { driveBus d s with ph := d.first, cnt := d.first.dwell s.cfg, cur := some d }

/-- Start the list a command has built: its head runs, its tail is CQ; an empty list leaves PH at IDLE (40 R138). -/
def startCommand (l : List Desc) (s : State) : State :=
  match l with
  | [] => s
  | d :: q => startCycle d { s with cq := q }

/-- The last step of the last cycle has elapsed (40 R137). -/
def finish (s : State) : State := { s with ph := .idle, cnt := 0, cur := none }

/-- One edge of the step engine with PH not IDLE (40 R137). -/
def advance (dIn : Byte) (s : State) : Host.Outcome State Fault Refusal :=
  match s.cur with
  | none => .fault .sequencerCorrupt
  | some d =>
    if d.hasStep s.ph = false then .fault .sequencerCorrupt
    else if s.cnt > 1 then .next { s with cnt := s.cnt - 1 }
    else
      match s.ph.next? with
      | some p => .next (enterStep dIn d p s)
      | none =>
        match s.cq with
        | d' :: q => .next (startCycle d' { s with cq := q })
        | [] => .next (finish s)

/-! ### Rejection and acceptance -/

/-- `raise CmdError(e)` (60 R250): LASTERR takes the code, ERRSEEN is set, nothing else changes. There is no vector, no
saved state and no return (60 R256). -/
def raiseCmdError (e : CmdErr) (s : State) : State := { s with lastErr := e, errSeen := true }

/-- The first failing check, in the order of the list (60 R252). -/
def firstFailing : List (Bool × CmdErr) → Option CmdErr
  | [] => none
  | (true, _) :: rest => firstFailing rest
  | (false, e) :: _ => some e

/-- `accept` for a decoded command (40 R138): its checks in the order of 60 R252, its state updates, and the descriptors
it emits, computed from the updated state. A command presented while PH is not IDLE is not accepted and has no effect: it
waits (10 R30, 40 R141, 70 R285; log 8). A configuration that is none is refused (00 R7; log 3). -/
def accept (checks : Config → List (Bool × CmdErr)) (update : State → State) (emits : State → List Desc)
    (s : State) : Host.Outcome State Fault Refusal :=
  if s.cfg.ok = false then .refused .badConfig
  else if s.ph ≠ .idle then .next s
  else
    match firstFailing (checks s.cfg) with
    | some e => .next (raiseCmdError e s)
    | none =>
      let s1 := update { s with lastErr := .none }
      .next (startCommand (emits s1) s1)

/-! ### Reset and presenting a command -/

/-- An edge with `rst = 1` (70 R280 to R283): every state item takes its reset value; the configuration and the inputs to
come are not state items. -/
def resetEdge (s : State) : State :=
  { State.resetOf s.cfg with inputs := s.inputs, draws := s.draws }

/-- The bus at rest and the sequencer idle: the state in which the port is ready (10 R30, R35 to R37, R40 to R42). -/
def restBus (s : State) : State :=
  { s with dOe := true, ceN := releaseModules s.cfg, wrN := true, rdN := true
           ph := .idle, cnt := 0, cur := none, cq := [] }

/-- The host presents `w` at the next edge, with `rst = 0`, to a block whose port is ready (10 R30, 70 R285). A block with
PH not IDLE is put at rest first; `d_in` stays what it was. -/
def presentWord (w : Word) (s : State) : State :=
  let i : EdgeInput := { rst := false, cmdValid := true, cmd := w, dIn := s.pins.dIn }
  let s1 := if s.ph = .idle then s.tick else (restBus s).tick
  { s1 with inputs := i :: s1.inputs }

/-! ### Cycle lengths -/

/-- `L_W` (40 R139). -/
def writeEdges (c : Config) : Nat := c.nAS + c.nCW + c.nWP + c.nWH + c.nAH

/-- `L_R` (40 R139). -/
def readEdges (c : Config) : Nat := c.nAS + c.nDZ + c.nCW + c.nRS + 1 + c.nWH + c.nDZ + c.nAH

/-- How many edges the cycle of a descriptor lasts (40 R139). -/
def Desc.edges (c : Config) : Desc → Nat
  | .wd _ _ _ => writeEdges c
  | .rd _ _ _ => readEdges c

end Sys2Proof.Machine
end

