-- ==== Sys2Proof/Machine/BusCommands.lean ====
section
/-! DEFINITION. WRREG and RDREG (40 R142, R143). -/

namespace Sys2Proof.Machine

/-- WRREG (40 R142): the write expansion of a physical address; any address, any data. -/
def execWrreg (tgt : Target) (ad dt : Byte) (s : State) : Host.Outcome State Fault Refusal :=
  accept (fun c => [(targetOk c tgt, .badTarget)]) id (fun s1 => expandW s1.cfg ad dt tgt) s

/-- RDREG (40 R143): one RAW read of one module; TS = 0xFF fails the check. -/
def execRdreg (tgt : Target) (ad : Byte) (s : State) : Host.Outcome State Fault Refusal :=
  accept (fun c => [(singleOk c tgt, .badTarget)]) id (fun _ => [.rd ad (targetNumber tgt) .raw]) s

end Sys2Proof.Machine
end

