-- ==== Sys2Proof/Machine/ControlWord.lean ====
section
/-! DEFINITION. SETBRI, SETFLEN, SETBLEN, SETCLR, SELFTEST and RDTEST (42 R215 to R220). -/

namespace Sys2Proof.Machine

/-- SETBRI (42 R215). -/
def execSetbri (br : BitVec 3) (s : State) : Host.Outcome State Fault Refusal :=
  accept (fun _ => []) (fun s0 => { s0 with cwg := { s0.cwg with br := br } }) globalWrite s

/-- SETFLEN (42 R216). -/
def execSetflen (v : Bool) (s : State) : Host.Outcome State Fault Refusal :=
  accept (fun _ => []) (fun s0 => { s0 with cwg := { s0.cwg with fe := v } }) globalWrite s

/-- SETBLEN (42 R217). -/
def execSetblen (v : Bool) (s : State) : Host.Outcome State Fault Refusal :=
  accept (fun _ => []) (fun s0 => { s0 with cwg := { s0.cwg with be := v } }) globalWrite s

/-- SETCLR (42 R218). -/
def execSetclr (v : Bool) (s : State) : Host.Outcome State Fault Refusal :=
  accept (fun _ => []) (fun s0 => { s0 with cwg := { s0.cwg with cl := v } }) globalWrite s

/-- SELFTEST (42 R219): only module TS's request bit and only module TS's control word. -/
def execSelftest (tgt : Target) (v : Bool) (s : State) : Host.Outcome State Fault Refusal :=
  accept (fun c => [(singleOk c tgt, .badTarget)])
    (fun s0 => { s0 with streq := s0.streq.set (targetNumber tgt) v })
    (fun s1 => [.wd (regAddr s1.cfg .ctrl 0) (cwByte s1 (targetNumber tgt)) [targetNumber tgt]]) s

/-- RDTEST (42 R220): one TEST read of the control word; the shadow is not touched (20 R81). -/
def execRdtest (tgt : Target) (s : State) : Host.Outcome State Fault Refusal :=
  accept (fun c => [(singleOk c tgt, .badTarget)]) id
    (fun s1 => [.rd (regAddr s1.cfg .ctrl 0) (targetNumber tgt) .test]) s

end Sys2Proof.Machine
end

