-- ==== Sys2Proof/Machine/Multiplexer.lean ====
section
/-! DEFINITION. WRLOG, WRPOS, LDFMAP and FLASHMAP (41 R177 to R180). -/

namespace Sys2Proof.Machine

/-- WRLOG (41 R177): BAD_TARGET before BAD_INDEX (60 R252); the shadow is not touched, SP = CTRL included (70 R286). -/
def execWrlog (sp : Space) (tgt : Target) (ix dt : Byte) (s : State) : Host.Outcome State Fault Refusal :=
  accept (fun c => [(targetOk c tgt, .badTarget), (indexOk c sp ix.toNat, .badIndex)]) id
    (fun s1 => expandW s1.cfg (regAddr s1.cfg sp ix.toNat) dt tgt) s

/-- WRPOS (41 R178): a position at or beyond TW is dropped and reported (90 C1). A space other than CHAR and FLASH is
ILLEGAL (30 R99); no decoded command has one. -/
def execWrpos (sp : Space) (pos : BitVec 16) (dt : Byte) (s : State) : Host.Outcome State Fault Refusal :=
  accept (fun c => [(sp.isLocal, .illegal), (decide (pos.toNat < c.tw), .posRange)]) id
    (fun s1 => [.wd (regAddr s1.cfg sp (resolve s1.cfg pos.toNat).2) dt [(resolve s1.cfg pos.toNat).1]]) s

/-- LDFMAP (41 R179): one chunk of FMAP; no bus cycle. -/
def execLdfmap (k : BitVec 16) (dt : Byte) (s : State) : Host.Outcome State Fault Refusal :=
  accept (fun c => [(decide (k.toNat < c.chunks), .badIndex)])
    (fun s0 => { s0 with fmap := loadChunk s0.cfg k.toNat dt s0.fmap }) (fun _ => []) s

/-- FLASHMAP (41 R180): one write a position, in ascending order. -/
def execFlashmap (s : State) : Host.Outcome State Fault Refusal :=
  accept (fun _ => []) id (fun s1 => (List.range s1.cfg.tw).map (flashWrite s1)) s

end Sys2Proof.Machine
end

