-- ==== Sys2Proof/Machine/Dispatch.lean ====
section
/-! DEFINITION. The dispatch: one arm per command, each one direct call of its meaning. -/

namespace Sys2Proof.Machine

/-- The meaning of a command at an edge that presents it (40 R138). -/
def exec (i : Instr) (s : State) : Host.Outcome State Fault Refusal :=
  match i with
  | .wrreg tgt ad dt => Sys2Proof.Machine.execWrreg tgt ad dt s
  | .rdreg tgt ad => Sys2Proof.Machine.execRdreg tgt ad s
  | .wrlog sp tgt ix dt => Sys2Proof.Machine.execWrlog sp tgt ix dt s
  | .wrpos sp pos dt => Sys2Proof.Machine.execWrpos sp pos dt s
  | .setbri br => Sys2Proof.Machine.execSetbri br s
  | .setflen v => Sys2Proof.Machine.execSetflen v s
  | .setblen v => Sys2Proof.Machine.execSetblen v s
  | .setclr v => Sys2Proof.Machine.execSetclr v s
  | .selftest tgt v => Sys2Proof.Machine.execSelftest tgt v s
  | .rdtest tgt => Sys2Proof.Machine.execRdtest tgt s
  | .ldfmap k dt => Sys2Proof.Machine.execLdfmap k dt s
  | .flashmap => Sys2Proof.Machine.execFlashmap s

end Sys2Proof.Machine
end

