-- ==== Sys2Proof/Machine/Flags.lean ====
section
/-! DEFINITION. The STATUS word and the port's ready line, as functions of the state (10 R23, R24, R30). -/

namespace Sys2Proof.Machine

/-- STATUS.BUSY: "1 exactly when PH ≠ IDLE" (10 R24). -/
def State.busy (s : State) : Bool := decide (s.ph ≠ .idle)

/-- `cmd_ready`: "`NOT STATUS.BUSY`, that is `PH = IDLE`" (10 R30). -/
def State.cmdReady (s : State) : Bool := !s.busy

/-- The 3-bit code of an error (60 R251). -/
def CmdErr.code : CmdErr → BitVec 3
  | .none => 0
  | .illegal => 1
  | .badTarget => 2
  | .posRange => 3
  | .badIndex => 4

/-- `status[15:0]` (10 R23): RDATA in 15:8, zeros in 7:6, TR in 5, LASTERR in 4:2, ERRSEEN in 1, BUSY in 0. -/
def State.statusWord (s : State) : BitVec 16 :=
  s.rdata ++ 0#2 ++ BitVec.ofBool s.tr ++ s.lastErr.code ++ BitVec.ofBool s.errSeen ++ BitVec.ofBool s.busy

end Sys2Proof.Machine
end

