-- ==== Sys2Proof/Machine/Step.lean ====
section
/-! DEFINITION. One clock edge (40 R137, R138, 70 R280), and the placing of a command for the host's questions. -/

namespace Sys2Proof.Machine

/-- `accept(w)` (40 R138): decode the word; ILLEGAL is raised at once (30 R97, R98), a command runs its meaning. -/
def acceptWord (w : Word) (s : State) : Host.Outcome State Fault Refusal :=
  match decode w with
  | .ok i => exec i s
  | .error _ => .next (raiseCmdError .illegal s)

/-- One edge. Reset wins over everything (70 R280, 60 R252). With PH = IDLE the port is ready: a valid command word is
accepted, otherwise nothing happens. With PH not IDLE the sequencer advances and `cmd`, `cmd_valid` are not read. -/
def step (s : State) : Host.Outcome State Fault Refusal :=
  if s.cfg.ok = false then .refused .badConfig
  else if s.pins.rst then .next (resetEdge s.tick)
  else if s.cmdReady then
    if s.pins.cmdValid then acceptWord s.pins.cmd s.tick else .next s.tick
  else advance s.pins.dIn s.tick

/-- The command whose bits are the low `nbits` bits of `w`, presented at the next edge (log 7). -/
def State.withFetchWord (s : State) (nbits w : Nat) : State := presentWord (tableWord nbits w) s

end Sys2Proof.Machine
end

