-- ==== Sys2Proof/Machine/Assembler.lean ====
section
/-! DEFINITION. The assembly syntax of 30 R101 to R103 and the pseudo-instructions of R104, as a total function from the
characters of a line to commands. It is a tool beside the block: no step uses it. A line is a list of characters, so that
Lean's kernel can evaluate the assembler. -/

namespace Sys2Proof.Machine

/-- Why a line is refused (30 R103). -/
inductive AsmError where
  /-- The characters do not form operands separated by commas. -/
  | badLine
  /-- The first word is no mnemonic of R101 or R104. -/
  | badMnemonic
  /-- The operands are not the ones the mnemonic takes, or one does not fit its field. -/
  | badOperand
  deriving DecidableEq, Repr

/-- The tokens of a line. -/
inductive Token where
  | word (cs : List Char)
  | comma
  | charLit (c : Char)
  | strLit (cs : List Char)
  deriving DecidableEq, Repr

/-- The token of a finished word; no token if there is no character. -/
def flushWord (w : List Char) (rest : List Token) : List Token :=
  if w.isEmpty then rest else .word w.reverse :: rest

/-- The tokens of a line. `;` starts a comment to the end of the line (30 R101), but not inside a literal. `inStr` says
that a string literal is open; `w` is the open word or string, reversed. -/
def lex : Bool → List Char → List Char → Option (List Token)
  | true, _, [] => none
  | true, w, '"' :: cs => (lex false [] cs).map (.strLit w.reverse :: ·)
  | true, w, c :: cs => lex true (c :: w) cs
  | false, w, [] => some (flushWord w [])
  | false, w, ';' :: _ => some (flushWord w [])
  | false, w, ',' :: cs => (lex false [] cs).map fun ts => flushWord w (.comma :: ts)
  | false, w, ' ' :: cs => (lex false [] cs).map (flushWord w)
  | false, w, '\t' :: cs => (lex false [] cs).map (flushWord w)
  | false, w, '\'' :: c :: '\'' :: cs =>
    if w.isEmpty then (lex false [] cs).map (.charLit c :: ·) else none
  | false, w, '"' :: cs => if w.isEmpty then lex true [] cs else none
  | false, w, c :: cs => lex false (c :: w) cs

/-- Operands separated by single commas. -/
def splitOperands : List Token → Option (List Token)
  | [] => some []
  | [.word w] => some [.word w]
  | [.charLit c] => some [.charLit c]
  | [.strLit s] => some [.strLit s]
  | .word w :: .comma :: t :: ts => (splitOperands (t :: ts)).map (.word w :: ·)
  | .charLit c :: .comma :: t :: ts => (splitOperands (t :: ts)).map (.charLit c :: ·)
  | .strLit s :: .comma :: t :: ts => (splitOperands (t :: ts)).map (.strLit s :: ·)
  | _ => none

/-! ### Numbers -/

/-- The value of a digit character. -/
def digitValue (c : Char) : Option Nat :=
  if '0' ≤ c ∧ c ≤ '9' then some (c.toNat - '0'.toNat)
  else if 'a' ≤ c ∧ c ≤ 'f' then some (c.toNat - 'a'.toNat + 10)
  else if 'A' ≤ c ∧ c ≤ 'F' then some (c.toNat - 'A'.toNat + 10)
  else none

/-- The value of a run of digits in a base; nothing if a character is no digit of it. -/
def digitsValue (base acc : Nat) : List Char → Option Nat
  | [] => some acc
  | c :: cs =>
    match digitValue c with
    | some d => if d < base then digitsValue base (acc * base + d) cs else none
    | none => none

/-- A number: decimal, `0x` hexadecimal or `0b` binary (30 R102). -/
def number : List Char → Option Nat
  | '0' :: 'x' :: c :: cs => digitsValue 16 0 (c :: cs)
  | '0' :: 'b' :: c :: cs => digitsValue 2 0 (c :: cs)
  | c :: cs => digitsValue 10 0 (c :: cs)
  | [] => none

/-! ### Operands (30 R102, R103) -/

/-- A number of any size. -/
def numberOperand : Token → Option Nat
  | .word w => number w
  | _ => none

/-- A number below a bound: one that fits its field (30 R103). -/
def numberBelow (bound : Nat) (t : Token) : Option Nat := (numberOperand t).filter (· < bound)

/-- A data byte: a number up to 0xFF, or a character literal of 7-bit ASCII (30 R102). -/
def byteOperand : Token → Option Byte
  | .charLit c => if c.toNat < 128 then some (BitVec.ofNat 8 c.toNat) else none
  | t => (numberBelow 256 t).map (BitVec.ofNat 8)

/-- A 16-bit operand: pos or k. -/
def halfOperand (t : Token) : Option (BitVec 16) := (numberBelow 65536 t).map (BitVec.ofNat 16)

/-- `v`, 0 or 1. -/
def bitOperand (t : Token) : Option Bool := (numberBelow 2 t).map (· == 1)

/-- `br`, 0 to 7. -/
def brOperand (t : Token) : Option (BitVec 3) := (numberBelow 8 t).map (BitVec.ofNat 3)

/-- `tgt`: `m<n>` with `n` a decimal number 0 to 254, or `all`. -/
def targetOperand : Token → Option Target
  | .word ['a', 'l', 'l'] => some .all
  | .word ('m' :: c :: cs) =>
    match digitsValue 10 0 (c :: cs) with
    | some n => if h : n < 255 then some (.one ⟨n, h⟩) else none
    | none => none
  | _ => none

/-- `space`. -/
def spaceOperand : Token → Option Space
  | .word ['u', 'd', 'c', 'a', 'd', 'd', 'r'] => some .udcAddr
  | .word ['u', 'd', 'c', 'r', 'a', 'm'] => some .udcRam
  | .word ['c', 't', 'r', 'l'] => some .ctrl
  | .word ['c', 'h', 'a', 'r'] => some .char
  | .word ['f', 'l', 'a', 's', 'h'] => some .flash
  | _ => none

/-! ### Mnemonics -/

/-- The mnemonics of R101 and R104. -/
inductive Mnemonic where
  | wrreg | rdreg | wrlog | wrpos | setbri | setflen | setblen | setclr | selftest | rdtest | ldfmap | flashmap
  | putc | putf | puts | udcdef | fmapload | flashon | flashoff
  deriving DecidableEq, Repr

/-- The upper-case letter of a letter; other characters stay. -/
def upper (c : Char) : Char :=
  if 'a' ≤ c ∧ c ≤ 'z' then Char.ofNat (c.toNat - 32) else c

/-- The mnemonic a word names; "Mnemonics are case-insensitive" (30 R101). -/
def mnemonicOf (w : List Char) : Option Mnemonic :=
  match w.map upper with
  | ['W', 'R', 'R', 'E', 'G'] => some .wrreg
  | ['R', 'D', 'R', 'E', 'G'] => some .rdreg
  | ['W', 'R', 'L', 'O', 'G'] => some .wrlog
  | ['W', 'R', 'P', 'O', 'S'] => some .wrpos
  | ['S', 'E', 'T', 'B', 'R', 'I'] => some .setbri
  | ['S', 'E', 'T', 'F', 'L', 'E', 'N'] => some .setflen
  | ['S', 'E', 'T', 'B', 'L', 'E', 'N'] => some .setblen
  | ['S', 'E', 'T', 'C', 'L', 'R'] => some .setclr
  | ['S', 'E', 'L', 'F', 'T', 'E', 'S', 'T'] => some .selftest
  | ['R', 'D', 'T', 'E', 'S', 'T'] => some .rdtest
  | ['L', 'D', 'F', 'M', 'A', 'P'] => some .ldfmap
  | ['F', 'L', 'A', 'S', 'H', 'M', 'A', 'P'] => some .flashmap
  | ['P', 'U', 'T', 'C'] => some .putc
  | ['P', 'U', 'T', 'F'] => some .putf
  | ['P', 'U', 'T', 'S'] => some .puts
  | ['U', 'D', 'C', 'D', 'E', 'F'] => some .udcdef
  | ['F', 'M', 'A', 'P', 'L', 'O', 'A', 'D'] => some .fmapload
  | ['F', 'L', 'A', 'S', 'H', 'O', 'N'] => some .flashon
  | ['F', 'L', 'A', 'S', 'H', 'O', 'F', 'F'] => some .flashoff
  | _ => none

/-! ### Pseudo-instructions (30 R104) -/

/-- `PUTS pos, "s"`: `PUTC pos+i, s[i]` in ascending `i`; a position above 0xFFFF or a character that is not 7-bit ASCII
does not fit its field and is refused (30 R102, R103). -/
def expandPuts (pos : Nat) : List Char → Option (List Instr)
  | [] => some []
  | c :: cs =>
    if pos < 65536 ∧ c.toNat < 128 then
      (expandPuts (pos + 1) cs).map (.wrpos .char (BitVec.ofNat 16 pos) (BitVec.ofNat 8 c.toNat) :: ·)
    else none

/-- `UDCDEF tgt, u, r0, ..., r6`: the index register, then the seven rows in ascending order. -/
def expandUdcdef (tgt : Target) (u : Byte) (rs : List Byte) : List Instr :=
  .wrlog .udcAddr tgt 0 u :: (List.range 7).map fun i => .wrlog .udcRam tgt (BitVec.ofNat 8 i) (rs.getD i 0)

/-- `FMAPLOAD value`: `LDFMAP k, value[8k+7:8k]` for `k = 0 .. ceil(TW/8)-1` in ascending order. The value
fills no field of a word, so it has no bound (30 R103): bits above the last chunk are in no slice, and the block discards the
bits of the last chunk at or above TW (41 R179). -/
def expandFmapload (tw value : Nat) : List Instr :=
  (List.range ((tw + 7) / 8)).map fun k => .ldfmap (BitVec.ofNat 16 k) (BitVec.ofNat 8 (value / 256 ^ k))

/-- The commands of a mnemonic and its operands, for a display of `tw` positions (which FMAPLOAD alone needs). -/
def assembleOperands (tw : Nat) : Mnemonic → List Token → Option (List Instr)
  | .wrreg, [t, a, d] => do return [.wrreg (← targetOperand t) (← (numberBelow 256 a).map (BitVec.ofNat 8)) (← byteOperand d)]
  | .rdreg, [t, a] => do return [.rdreg (← targetOperand t) (← (numberBelow 256 a).map (BitVec.ofNat 8))]
  | .wrlog, [sp, t, ix, d] => do
    return [.wrlog (← spaceOperand sp) (← targetOperand t) (← (numberBelow 256 ix).map (BitVec.ofNat 8)) (← byteOperand d)]
  | .wrpos, [sp, p, d] => do
    return [.wrpos (← (spaceOperand sp).filter Space.isLocal) (← halfOperand p) (← byteOperand d)]
  | .setbri, [b] => do return [.setbri (← brOperand b)]
  | .setflen, [v] => do return [.setflen (← bitOperand v)]
  | .setblen, [v] => do return [.setblen (← bitOperand v)]
  | .setclr, [v] => do return [.setclr (← bitOperand v)]
  | .selftest, [t, v] => do return [.selftest (← targetOperand t) (← bitOperand v)]
  | .rdtest, [t] => do return [.rdtest (← targetOperand t)]
  | .ldfmap, [k, d] => do return [.ldfmap (← halfOperand k) (← byteOperand d)]
  | .flashmap, [] => some [.flashmap]
  | .putc, [p, d] => do return [.wrpos .char (← halfOperand p) (← byteOperand d)]
  | .putf, [p, v] => do return [.wrpos .flash (← halfOperand p) (flashBit (← bitOperand v))]
  | .puts, [p, .strLit cs] => do expandPuts (← numberBelow 65536 p) cs
  | .udcdef, [t, u, r0, r1, r2, r3, r4, r5, r6] => do
    return expandUdcdef (← targetOperand t) (← byteOperand u) (← [r0, r1, r2, r3, r4, r5, r6].mapM byteOperand)
  | .fmapload, [v] => (numberOperand v).map (expandFmapload tw)
  | .flashon, [] => some [.setflen true]
  | .flashoff, [] => some [.setflen false]
  | _, _ => none
where
  /-- `v` as a flash byte. -/
  flashBit (v : Bool) : Byte := if v then 1 else 0

/-- One line: nothing for a blank or comment line, else `MNEMONIC operand, operand, ...` (30 R101). -/
def assembleLine (tw : Nat) (line : List Char) : Except AsmError (List Instr) :=
  match lex false [] line with
  | none => .error .badLine
  | some [] => .ok []
  | some (.word m :: ts) =>
    match mnemonicOf m, splitOperands ts with
    | none, _ => .error .badMnemonic
    | some _, none => .error .badLine
    | some mn, some ops =>
      match assembleOperands tw mn ops with
      | some is => .ok is
      | none => .error .badOperand
  | some _ => .error .badLine

/-- A program, one command a line (30 R101): the words it pushes, or the number of the first line refused and why ("The
assembler refuses, by line", 30 R103). -/
def assemble (tw : Nat) : Nat → List (List Char) → Except (Nat × AsmError) (List Word)
  | _, [] => .ok []
  | n, line :: lines =>
    match assembleLine tw line with
    | .error e => .error (n, e)
    | .ok is => (assemble tw (n + 1) lines).map (is.map encode ++ ·)

end Sys2Proof.Machine
end

