-- ==== Sys2Proof/Safety.lean ====
section
/-! DEFINITION. The terms the statements use: what a well-behaved state is (10 R31 to R42, 40 R140), the bus events of a
run (20 R75, R76, R78), the codes and durations the spec's tables give a command (60 R251, 70 R293), and the states a
command leaves behind. -/

namespace Sys2Proof.Machine

/-! ### States in which the port accepts -/

/-- The next state of an outcome, if it has one. -/
def nextState : Host.Outcome State Fault Refusal → Option State
  | .next s => some s
  | .fault _ => none
  | .refused _ => none

/-- The configuration is one (00 R7) and the port is ready (10 R30). -/
abbrev Ready (s : State) : Prop := s.cfg.ok = true ∧ s.ph = .idle

/-- The next edge accepts the word `w`: no reset, `cmd_valid`, the port ready (10 R30, 70 R280). -/
abbrev Accepts (s : State) (w : Word) : Prop :=
  Ready s ∧ s.pins.rst = false ∧ s.pins.cmdValid = true ∧ s.pins.cmd = w

/-! ### The invariant of the block -/

/-- The module set of a descriptor (40 R130). -/
def Desc.modules : Desc → List Nat
  | .wd _ _ mods => mods
  | .rd _ m _ => [m]

/-- The address of a descriptor (40 R130). -/
def Desc.addr : Desc → Byte
  | .wd a _ _ => a
  | .rd a _ _ => a

/-- The module set is not empty and holds existing modules only (40 R130, 00 R13). -/
def Desc.legal (c : Config) (d : Desc) : Prop := d.modules ≠ [] ∧ ∀ m ∈ d.modules, m < c.nmod

/-- The steps during which modules are selected: W2 to W4 and R3 to R6 (40 R140 (6)). -/
def Phase.selects : Phase → Bool
  | .w2 | .w3 | .w4 | .r3 | .r4 | .r5 | .r6 => true
  | .idle | .w1 | .w5 | .r1 | .r2 | .r7 | .r8 => false

/-- The steps during which the data pins are inputs: R2 to R7 (40 R140 (5)). -/
def Phase.turnsRound : Phase → Bool
  | .r2 | .r3 | .r4 | .r5 | .r6 | .r7 => true
  | .idle | .w1 | .w2 | .w3 | .w4 | .w5 | .r1 | .r8 => false

/-- CE_N[m] as the pins show it; a line that does not exist is released. -/
def State.chipSelect (s : State) (m : Nat) : Bool := s.ceN.getD m true

/-- The sequencer's own bookkeeping (10 R32, R36, R39 to R42): the configuration is one, the registers of NMOD and TW bits
have their widths, PH = IDLE exactly when nothing is in progress, and a busy sequencer is in a step of CUR with between 1
and that step's dwell of edges left. -/
structure SeqInv (s : State) : Prop where
  cfg_ok : s.cfg.ok = true
  streq_length : s.streq.length = s.cfg.nmod
  fmap_length : s.fmap.length = s.cfg.tw
  ceN_length : s.ceN.length = s.cfg.nmod
  idle_empty : s.ph = .idle → s.cnt = 0 ∧ s.cur = none ∧ s.cq = []
  busy_cycle : s.ph ≠ .idle → ∃ d, s.cur = some d ∧ d.hasStep s.ph = true
  busy_count : s.ph ≠ .idle → 1 ≤ s.cnt ∧ s.cnt ≤ s.ph.dwell s.cfg
  legal_cur : ∀ d, s.cur = some d → d.legal s.cfg
  legal_queue : ∀ d ∈ s.cq, d.legal s.cfg

/-- The registered bus outputs follow PH and CUR (40 R131, R134, R140). -/
structure BusInv (s : State) : Prop where
  write_strobe : s.wrN = false ↔ s.ph = .w3
  read_strobe : s.rdN = false ↔ (s.ph = .r4 ∨ s.ph = .r5)
  direction : s.dOe = false ↔ s.ph.turnsRound = true
  select : ∀ m, s.chipSelect m = false ↔ (s.ph.selects = true ∧ ∃ d, s.cur = some d ∧ m ∈ d.modules)
  address : ∀ d, s.cur = some d → s.aOut = d.addr
  data : ∀ a v mods, s.cur = some (.wd a v mods) → s.dOut = v

/-- The invariant every step keeps. -/
structure Inv (s : State) : Prop where
  seq : SeqInv s
  bus : BusInv s

/-! ### Bus events and runs -/

/-- What a step of the bus does to the outside (20 R76, R78). -/
inductive Event where
  /-- A write is performed: byte `v` to address `a` of the modules `mods`, at its W4 edge (20 R76). -/
  | written (a v : Byte) (mods : List Nat)
  /-- A byte is sampled, at the R5 edge of a read (20 R78). -/
  | sampled (a : Byte) (m : Nat) (k : ReadKind) (byte : Byte)
  deriving DecidableEq, Repr

/-- The descriptor whose cycle the event belongs to. -/
def Event.desc : Event → Desc
  | .written a v mods => .wd a v mods
  | .sampled a m k _ => .rd a m k

/-- The event of the edge between two states: none at most edges, and none at a reset edge (70 R281). -/
def busEvent (s s' : State) : List Event :=
  match s.ph, s'.ph, s'.cur with
  | .w3, .w4, some (.wd a v mods) => [.written a v mods]
  | .r4, .r5, some (.rd a m k) => [.sampled a m k s'.rdata]
  | _, _, _ => []

/-- `n` edges: the state after them and the bus events in their order; nothing if the machine stops. -/
def runEdges : Nat → State → Option (State × List Event)
  | 0, s => some (s, [])
  | n + 1, s =>
    match step s with
    | .next s' => (runEdges n s').map fun r => (r.1, busEvent s s' ++ r.2)
    | .fault _ => none
    | .refused _ => none

/-- No reset is asserted at the next `n` edges for which the state lists inputs; at the others there is none. -/
def NoReset (n : Nat) (s : State) : Prop := ∀ e ∈ s.inputs.take n, e.rst = false

/-- The cycles in progress and waiting, in order (10 R42). -/
def State.cycles (s : State) : List Desc := s.cur.toList ++ s.cq

/-! ### The states a command leaves after its acceptance edge -/

/-- `s` after the W1 step of a write of `v` to `a` of `mods`, with `q` waiting and LASTERR = NONE (40 R131, R138). -/
def State.startedWrite (s : State) (a v : Byte) (mods : List Nat) (q : List Desc) : State :=
  { s with lastErr := .none, aOut := a, dOut := v, ph := .w1, cnt := s.cfg.nAS, cur := some (.wd a v mods), cq := q }

/-- `s` after the R1 step of a read of kind `k` from `a` of module `m`, with LASTERR = NONE (40 R134, R138). -/
def State.startedRead (s : State) (a : Byte) (m : Nat) (k : ReadKind) : State :=
  { s with lastErr := .none, aOut := a, ph := .r1, cnt := s.cfg.nAS, cur := some (.rd a m k), cq := [] }

/-- `s` after the rejection of a command with code `e` (60 R250). -/
def State.rejected (s : State) (e : CmdErr) : State := { s with lastErr := e, errSeen := true }

/-- `s` after a global setter that has left the shadow as in `s` (42 R214): one write of the common byte to all modules
where every request bit is equal and one cycle may select them all, else one write a module of its own byte, module 0
first. -/
def State.startedGlobal (s : State) : State :=
  if s.cfg.bcast = true ∧ ∀ m < s.cfg.nmod, s.selfTestReq m = s.selfTestReq 0 then
    s.startedWrite s.cfg.rat.ctrl (cwByte s 0) (List.range s.cfg.nmod) []
  else
    s.startedWrite s.cfg.rat.ctrl (cwByte s 0) [0]
      ((List.range (s.cfg.nmod - 1)).map fun m => .wd s.cfg.rat.ctrl (cwByte s (m + 1)) [m + 1])

/-! ### The spec's tables of codes and durations -/

/-- The code a decoded command is rejected with, NONE if it is not (the table of 60 R251, in the order of R252). -/
def rejectionCode (c : Config) : Instr → CmdErr
  | .wrreg (.one m) _ _ => if m.val < c.nmod then .none else .badTarget
  | .wrreg .all _ _ => .none
  | .rdreg (.one m) _ => if m.val < c.nmod then .none else .badTarget
  | .rdreg .all _ => .badTarget
  | .wrlog sp (.one m) ix _ =>
    if m.val < c.nmod then (if indexOk c sp ix.toNat then .none else .badIndex) else .badTarget
  | .wrlog sp .all ix _ => if indexOk c sp ix.toNat then .none else .badIndex
  | .wrpos sp pos _ =>
    if sp = .char ∨ sp = .flash then (if pos.toNat < c.tw then .none else .posRange) else .illegal
  | .setbri _ => .none
  | .setflen _ => .none
  | .setblen _ => .none
  | .setclr _ => .none
  | .selftest (.one m) _ => if m.val < c.nmod then .none else .badTarget
  | .selftest .all _ => .badTarget
  | .rdtest (.one m) => if m.val < c.nmod then .none else .badTarget
  | .rdtest .all => .badTarget
  | .ldfmap k _ => if k.toNat < (c.tw + 7) / 8 then .none else .badIndex
  | .flashmap => .none

/-- The edges a write to all modules of one byte takes (70 R293). -/
def broadcastEdges (c : Config) : Nat := if c.bcast then writeEdges c else c.nmod * writeEdges c

/-- The edges a global setter takes (70 R293). -/
def setterEdges (s : State) : Nat :=
  if ∀ m < s.cfg.nmod, s.selfTestReq m = s.selfTestReq 0 then broadcastEdges s.cfg else s.cfg.nmod * writeEdges s.cfg

/-- B, the number of edges BUSY is 1 after a command's acceptance (the table of 70 R293). -/
def commandEdges (s : State) (i : Instr) : Nat :=
  if rejectionCode s.cfg i ≠ .none then 0 else
  match i with
  | .wrreg (.one _) _ _ => writeEdges s.cfg
  | .wrreg .all _ _ => broadcastEdges s.cfg
  | .rdreg _ _ => readEdges s.cfg
  | .wrlog _ (.one _) _ _ => writeEdges s.cfg
  | .wrlog _ .all _ _ => broadcastEdges s.cfg
  | .wrpos _ _ _ => writeEdges s.cfg
  | .setbri _ => setterEdges s
  | .setflen _ => setterEdges s
  | .setblen _ => setterEdges s
  | .setclr _ => setterEdges s
  | .selftest _ _ => writeEdges s.cfg
  | .rdtest _ => readEdges s.cfg
  | .ldfmap _ _ => 0
  | .flashmap => s.cfg.tw * writeEdges s.cfg

/-! ### The control words of the modules, as far as the block wrote them -/

/-- The last byte that a list of cycles writes to address `a` of module `m`, `old` if it writes none. -/
def lastWritten (a : Byte) (m : Nat) (ds : List Desc) (old : Option Byte) : Option Byte :=
  ds.foldl (fun acc d =>
    match d with
    | .wd a' v mods => if a' = a ∧ m ∈ mods then some v else acc
    | .rd _ _ _ => acc) old

/-- The cycles whose write is not performed yet: CUR before its W4 edge, then CQ (20 R76). -/
def State.pendingWrites (s : State) : List Desc :=
  match s.ph with
  | .w1 | .w2 | .w3 => s.cycles
  | .idle | .w4 | .w5 | .r1 | .r2 | .r3 | .r4 | .r5 | .r6 | .r7 | .r8 => s.cq

/-- `dev m` is the last byte the block has written to module `m`'s control word, none if it has written none. The shadow is
written through (42 R221 (5)): with the writes still to come, every module has, or will have, the byte CWbyte(m). -/
def WrittenThrough (s : State) (dev : Nat → Option Byte) : Prop :=
  ∀ m < s.cfg.nmod, lastWritten s.cfg.rat.ctrl m s.pendingWrites (dev m) = some (cwByte s m)

/-- The record of the modules' control words after the events of one edge. -/
def recordEvents (ctrl : Byte) (ev : List Event) (dev : Nat → Option Byte) : Nat → Option Byte :=
  fun m => lastWritten ctrl m (ev.map Event.desc) (dev m)

/-- The command is a raw write to the control-word address (70 R286). -/
def rawControlWrite (c : Config) : Instr → Bool
  | .wrreg _ ad _ => ad == c.rat.ctrl
  | .wrlog sp _ _ _ => sp == .ctrl
  | .rdreg _ _ => false
  | .wrpos _ _ _ => false
  | .setbri _ => false
  | .setflen _ => false
  | .setblen _ => false
  | .setclr _ => false
  | .selftest _ _ => false
  | .rdtest _ => false
  | .ldfmap _ _ => false
  | .flashmap => false

end Sys2Proof.Machine
end

