-- ==== Sys2Proof/Certificates/Slice0/Obligations.lean ====
section
/-! DEFINITION. The statements for the provers. Each docstring names the rule of spec/ a statement formalises, or says that
a clause is the model's choice. -/

open Sys2Proof
open Sys2Proof.Machine

/-! ### Encoding -/

/-- 30 R93, R97: decoding the word of a well-formed command gives the command back, with every operand at every value its
field admits. -/
def Obligations.EncodedCommandsDecodeBack : Prop :=
  ∀ i : Instr, i.wf = true → decode (encode i) = .ok i

/-- 30 R93: a word that decodes is the word of the command it decodes to, so no bit of an accepted word is dropped, and
the command is well formed. -/
def Obligations.DecodedWordsEncodeBack : Prop :=
  ∀ (w : Word) (i : Instr), decode w = .ok i → i.wf = true ∧ encode i = w

/-- The example words of 30 R101 decode to the commands of that table. -/
def Obligations.ExampleWordsOfTheSyntaxTableDecode : Prop :=
  decode 0x10013A48 = .ok (.wrreg (.one 1) 0x3A 0x48) ∧
  decode 0x20003000 = .ok (.rdreg (.one 0) 0x30) ∧
  decode 0x33010248 = .ok (.wrlog .char (.one 1) 2 0x48) ∧
  decode 0x43000A48 = .ok (.wrpos .char 10 0x48) ∧
  decode 0x50000005 = .ok (.setbri 5) ∧
  decode 0x60000001 = .ok (.setflen true) ∧
  decode 0x70000001 = .ok (.setblen true) ∧
  decode 0x80000000 = .ok (.setclr false) ∧
  decode 0x90000001 = .ok (.selftest (.one 0) true) ∧
  decode 0xA0000000 = .ok (.rdtest (.one 0)) ∧
  decode 0xB0000180 = .ok (.ldfmap 1 0x80) ∧
  decode 0xC0000000 = .ok .flashmap

/-- 30 R97: "The rows are disjoint": no word has the fixed bits of two rows of the table. -/
def Obligations.DecodeRowsAreDisjoint : Prop :=
  rows.Pairwise fun r q => ∀ w : Word, ¬ (r.hits w = true ∧ q.hits w = true)

/-- 30 R98: a word whose OP is 0x0, 0xD, 0xE or 0xF is rejected with ILLEGAL and does nothing else; the all-zero word is
one of them. -/
def Obligations.ReservedOpcodesAreRejectedWithIllegal : Prop :=
  (∀ (w : Word) (s : State), (opField w = 0x0 ∨ opField w = 0xD ∨ opField w = 0xE ∨ opField w = 0xF) → Accepts s w →
    step s = .next { s.tick with lastErr := .illegal, errSeen := true }) ∧
  opField 0 = 0x0

/-- 30 R93, R99: a word decodes exactly when its OP is one of the twelve, its must-be-zero fields are zero, and its SP is
one the command takes. -/
def Obligations.DecodesExactlyTheLegalWords : Prop :=
  ∀ w : Word, (∃ i, decode w = .ok i) ↔
    (opField w = 0x1 ∧ spField w = 0) ∨
    (opField w = 0x2 ∧ spField w = 0 ∧ dtField w = 0) ∨
    (opField w = 0x3 ∧ (spField w).toNat ≤ 4) ∨
    (opField w = 0x4 ∧ (spField w = 3 ∨ spField w = 4)) ∨
    (opField w = 0x5 ∧ w.extractLsb' 3 25 = 0) ∨
    ((opField w = 0x6 ∨ opField w = 0x7 ∨ opField w = 0x8) ∧ w.extractLsb' 1 27 = 0) ∨
    (opField w = 0x9 ∧ spField w = 0 ∧ w.extractLsb' 1 15 = 0) ∨
    (opField w = 0xA ∧ spField w = 0 ∧ w.extractLsb' 0 16 = 0) ∨
    (opField w = 0xB ∧ spField w = 0) ∨
    (opField w = 0xC ∧ w.extractLsb' 0 28 = 0)

/-- 30 R103: "it never emits an ILLEGAL word": every word of an assembled line decodes to the command it was emitted
for. -/
def Obligations.AssemblerEmitsNoIllegalWord : Prop :=
  ∀ (tw : Nat) (line : List Char) (is : List Instr), assembleLine tw line = .ok is →
    ∀ i ∈ is, decode (encode i) = .ok i

/-! ### The step and the command port -/

/-- A step runs the decoded command: when the next edge accepts a word that decodes to `i`, the step is `exec i` at the
state whose inputs for that edge are used up, and `i` is well formed (40 R138). -/
def Obligations.StepRunsTheDecodedCommand : Prop :=
  ∀ (s : State) (w : Word) (i : Instr), Accepts s w → decode w = .ok i →
    i.wf = true ∧ step s = exec i s.tick

/-- 30 R97, R99, 60 R250: a word that does not decode is rejected with ILLEGAL, and only LASTERR and ERRSEEN change. -/
def Obligations.UndecodableWordsAreRejectedWithIllegal : Prop :=
  ∀ (s : State) (w : Word) (r : Illegal), Accepts s w → decode w = .error r →
    step s = .next { s.tick with lastErr := .illegal, errSeen := true }

/-- 40 R137: an edge with PH = IDLE, no reset and no valid command changes nothing of the block. -/
def Obligations.IdleEdgeWithoutCommandChangesNothing : Prop :=
  ∀ s : State, Ready s → s.pins.rst = false → s.pins.cmdValid = false → step s = .next s.tick

/-- 40 R137: "The step engine never reads `cmd` or `cmd_valid` while PH ≠ IDLE": two edges that differ in the command port
alone have the same outcome. -/
def Obligations.BusySequencerIgnoresTheCommandPort : Prop :=
  ∀ (s : State) (i j : EdgeInput) (rest : List EdgeInput), s.ph ≠ .idle → i.rst = j.rst → i.dIn = j.dIn →
    step { s with inputs := i :: rest } = step { s with inputs := j :: rest }

/-- 10 R38: `d_in` matters only at the sample step: at an edge that does not enter R5, two edges that differ in `d_in`
alone have the same outcome. -/
def Obligations.DataPinsMatterOnlyAtTheSampleStep : Prop :=
  ∀ (s : State) (i j : EdgeInput) (rest : List EdgeInput), ¬ (s.ph = .r4 ∧ s.cnt ≤ 1) →
    i.rst = j.rst → i.cmdValid = j.cmdValid → i.cmd = j.cmd →
    step { s with inputs := i :: rest } = step { s with inputs := j :: rest }

/-- The model's choice (notes/assumptions/8.md), after 10 R30 and 40 R141: a command put to a block that is not ready has
none of its effect; it waits. -/
def Obligations.CommandWaitsWhileThePortIsNotReady : Prop :=
  ∀ (i : Instr) (s : State), s.cfg.ok = true → s.ph ≠ .idle → exec i s = .next s

/-- 70 R280, R281, R282, R283: an edge with `rst = 1` gives every state item of 10 R22 its reset value, whatever the block
was doing and whatever the command port shows; the configuration stays, and the edge's inputs are used up. -/
def Obligations.ResetEdgeGivesEveryItemItsResetValue : Prop :=
  ∀ s : State, s.cfg.ok = true → s.pins.rst = true → ∃ t, step s = .next t ∧
    t.statusWord = 0x0000 ∧ t.cmdReady = true ∧ t.errSeen = false ∧ t.lastErr = .none ∧ t.tr = false ∧ t.rdata = 0x00 ∧
    t.cwg = { br := 0, fe := false, be := false, cl := false } ∧
    (t.streq.length = s.cfg.nmod ∧ ∀ b ∈ t.streq, b = false) ∧ (t.fmap.length = s.cfg.tw ∧ ∀ b ∈ t.fmap, b = false) ∧
    t.aOut = 0x00 ∧ t.dOut = 0x00 ∧ t.dOe = true ∧ (t.ceN.length = s.cfg.nmod ∧ ∀ b ∈ t.ceN, b = true) ∧
    t.wrN = true ∧ t.rdN = true ∧ t.ph = .idle ∧ t.cnt = 0 ∧ t.cur = none ∧ t.cq = [] ∧
    t.cfg = s.cfg ∧ t.inputs = s.tick.inputs ∧ t.draws = s.tick.draws

/-- 10 R23: the bits of STATUS. -/
def Obligations.StatusWordHasTheLayout : Prop :=
  ∀ s : State,
    s.statusWord.getLsbD 0 = decide (s.ph ≠ .idle) ∧
    s.statusWord.getLsbD 1 = s.errSeen ∧
    s.statusWord.extractLsb' 2 3 = s.lastErr.code ∧
    s.statusWord.getLsbD 5 = s.tr ∧
    s.statusWord.extractLsb' 6 2 = 0 ∧
    s.statusWord.extractLsb' 8 8 = s.rdata

/-! ### The commands: what each does at its acceptance edge -/

/-- 40 R142, 41 R175: WRREG starts one write of `dt` to `ad` for one module or, with BCAST, for all; without BCAST a write
to all modules is one write each, in ascending order. Everything else but LASTERR stays. -/
def Obligations.WrregStartsItsWrites : Prop :=
  ∀ (ad dt : Byte) (s : State), Ready s →
    (∀ m : Fin 255, m.val < s.cfg.nmod → exec (.wrreg (.one m) ad dt) s = .next (s.startedWrite ad dt [m.val] [])) ∧
    (s.cfg.bcast = true → exec (.wrreg .all ad dt) s = .next (s.startedWrite ad dt (List.range s.cfg.nmod) [])) ∧
    (s.cfg.bcast = false → exec (.wrreg .all ad dt) s =
      .next (s.startedWrite ad dt [0] ((List.range (s.cfg.nmod - 1)).map fun m => .wd ad dt [m + 1])))

/-- 40 R143: RDREG starts one RAW read of one module. -/
def Obligations.RdregStartsItsRead : Prop :=
  ∀ (m : Fin 255) (ad : Byte) (s : State), Ready s → m.val < s.cfg.nmod →
    exec (.rdreg (.one m) ad) s = .next (s.startedRead ad m.val .raw)

/-- 41 R177: WRLOG is WRREG at the address RAT gives the logical register; CTRL is no exception, so the shadow stays
(70 R286). -/
def Obligations.WrlogStartsItsWrites : Prop :=
  ∀ (sp : Space) (ix dt a : Byte) (s : State), Ready s →
    (match sp with
      | .udcAddr => ix = 0 ∧ a = s.cfg.rat.udcAddr
      | .udcRam => s.cfg.rat.udcRam[ix.toNat]? = some a
      | .ctrl => ix = 0 ∧ a = s.cfg.rat.ctrl
      | .char => s.cfg.rat.char[ix.toNat]? = some a
      | .flash => s.cfg.rat.flash[ix.toNat]? = some a) →
    (∀ m : Fin 255, m.val < s.cfg.nmod → exec (.wrlog sp (.one m) ix dt) s = .next (s.startedWrite a dt [m.val] [])) ∧
    (s.cfg.bcast = true → exec (.wrlog sp .all ix dt) s = .next (s.startedWrite a dt (List.range s.cfg.nmod) [])) ∧
    (s.cfg.bcast = false → exec (.wrlog sp .all ix dt) s =
      .next (s.startedWrite a dt [0] ((List.range (s.cfg.nmod - 1)).map fun m => .wd a dt [m + 1])))

/-- 41 R178: WRPOS starts one write to local address `p % W` of module `p / W`. -/
def Obligations.WrposWritesTheResolvedPosition : Prop :=
  ∀ (pos : BitVec 16) (dt a : Byte) (s : State), Ready s → pos.toNat < s.cfg.nmod * s.cfg.w →
    (s.cfg.rat.char[pos.toNat % s.cfg.w]? = some a →
      exec (.wrpos .char pos dt) s = .next (s.startedWrite a dt [pos.toNat / s.cfg.w] [])) ∧
    (s.cfg.rat.flash[pos.toNat % s.cfg.w]? = some a →
      exec (.wrpos .flash pos dt) s = .next (s.startedWrite a dt [pos.toNat / s.cfg.w] []))

/-- 41 R179: LDFMAP writes the eight bits of chunk `k` that exist, emits nothing, and leaves everything else but
LASTERR. -/
def Obligations.LdfmapLoadsOneChunkOfTheBitmap : Prop :=
  ∀ (k : BitVec 16) (dt : Byte) (s : State), Ready s → s.fmap.length = s.cfg.tw → 8 * k.toNat < s.cfg.tw →
    ∃ f : List Bool, exec (.ldfmap k dt) s = .next { s with lastErr := .none, fmap := f } ∧
      f.length = s.cfg.tw ∧
      ∀ j, j < s.cfg.tw → f.getD j false = if j / 8 = k.toNat then dt.getLsbD (j % 8) else s.fmap.getD j false

/-- 41 R180: FLASHMAP starts the writes of all TW positions in ascending order, each with the flash bit FMAP[TW-1-p] of
its position as 0x01 or 0x00, to the flash address of its local index. -/
def Obligations.FlashmapWritesEveryPositionInOrder : Prop :=
  ∀ s : State, Ready s → ∃ (a v : Byte) (q : List Desc),
    exec .flashmap s = .next (s.startedWrite a v [0] q) ∧
    (Desc.wd a v [0] :: q).length = s.cfg.nmod * s.cfg.w ∧
    ∀ p a', p < s.cfg.nmod * s.cfg.w → s.cfg.rat.flash[p % s.cfg.w]? = some a' →
      (Desc.wd a v [0] :: q)[p]? =
        some (.wd a' (if s.flashBit (s.cfg.nmod * s.cfg.w - 1 - p) then 0x01 else 0x00) [p / s.cfg.w])

/-- 42 R214, R215: SETBRI changes CWG.BR alone of the shadow and starts the global write-out of the new bytes. -/
def Obligations.SetbriUpdatesBrightnessAndWritesItOut : Prop :=
  ∀ (br : BitVec 3) (s : State), Ready s →
    exec (.setbri br) s = .next { s with cwg := { s.cwg with br := br } }.startedGlobal

/-- 42 R214, R216: SETFLEN changes CWG.FE alone of the shadow and starts the global write-out of the new bytes. -/
def Obligations.SetflenUpdatesFlashEnableAndWritesItOut : Prop :=
  ∀ (v : Bool) (s : State), Ready s →
    exec (.setflen v) s = .next { s with cwg := { s.cwg with fe := v } }.startedGlobal

/-- 42 R214, R217: SETBLEN changes CWG.BE alone of the shadow and starts the global write-out of the new bytes. -/
def Obligations.SetblenUpdatesBlinkEnableAndWritesItOut : Prop :=
  ∀ (v : Bool) (s : State), Ready s →
    exec (.setblen v) s = .next { s with cwg := { s.cwg with be := v } }.startedGlobal

/-- 42 R214, R218: SETCLR changes CWG.CL alone of the shadow and starts the global write-out of the new bytes. -/
def Obligations.SetclrUpdatesTheClearFieldAndWritesItOut : Prop :=
  ∀ (v : Bool) (s : State), Ready s →
    exec (.setclr v) s = .next { s with cwg := { s.cwg with cl := v } }.startedGlobal

/-- 42 R219: SELFTEST changes STREQ of one module alone and starts one write of that module's new byte to it. -/
def Obligations.SelftestUpdatesAndWritesOneModule : Prop :=
  ∀ (m : Fin 255) (v : Bool) (s : State), Ready s → m.val < s.cfg.nmod → s.streq.length = s.cfg.nmod →
    ∃ q : List Bool,
      exec (.selftest (.one m) v) s =
        .next ({ s with streq := q }.startedWrite s.cfg.rat.ctrl (cwByte { s with streq := q } m.val) [m.val] []) ∧
      q.length = s.cfg.nmod ∧ ∀ j, j < s.cfg.nmod → q.getD j false = if j = m.val then v else s.streq.getD j false

/-- 42 R220: RDTEST starts one TEST read of the control word of one module. -/
def Obligations.RdtestStartsItsRead : Prop :=
  ∀ (m : Fin 255) (s : State), Ready s → m.val < s.cfg.nmod →
    exec (.rdtest (.one m)) s = .next (s.startedRead s.cfg.rat.ctrl m.val .test)

/-- 42 R211: the bits of CWbyte(m), and the byte under the default layout. -/
def Obligations.ControlWordByteHasItsFields : Prop :=
  (∀ (s : State) (m : Nat), s.cfg.ok = true →
    (cwByte s m).extractLsb' 0 3 = s.cwg.br ∧
    (cwByte s m).getLsbD s.cfg.cwl.fe = s.cwg.fe ∧
    (cwByte s m).getLsbD s.cfg.cwl.be = s.cwg.be ∧
    (cwByte s m).getLsbD s.cfg.cwl.tr = false ∧
    (cwByte s m).getLsbD s.cfg.cwl.st = s.streq.getD m false ∧
    (cwByte s m).getLsbD s.cfg.cwl.cl = s.cwg.cl) ∧
  (∀ (s : State) (m : Nat), s.cfg.cwl = { fe := 3, be := 4, tr := 5, st := 6, cl := 7 } →
    cwByte s m = BitVec.ofBool s.cwg.cl ++ BitVec.ofBool (s.streq.getD m false) ++ 0#1 ++ BitVec.ofBool s.cwg.be ++
      BitVec.ofBool s.cwg.fe ++ s.cwg.br)

/-! ### Rejections -/

/-- 40 R142, R143, 41 R174, R177, 42 R219, R220: a target that names no module is rejected with BAD_TARGET, whatever the
other operands are, and TS = 0xFF is one for RDREG, SELFTEST and RDTEST. -/
def Obligations.BadTargetsAreRejected : Prop :=
  ∀ (s : State) (ad ix dt : Byte) (sp : Space) (v : Bool), Ready s →
    (∀ m : Fin 255, s.cfg.nmod ≤ m.val →
      exec (.wrreg (.one m) ad dt) s = .next (s.rejected .badTarget) ∧
      exec (.rdreg (.one m) ad) s = .next (s.rejected .badTarget) ∧
      exec (.wrlog sp (.one m) ix dt) s = .next (s.rejected .badTarget) ∧
      exec (.selftest (.one m) v) s = .next (s.rejected .badTarget) ∧
      exec (.rdtest (.one m)) s = .next (s.rejected .badTarget)) ∧
    exec (.rdreg .all ad) s = .next (s.rejected .badTarget) ∧
    exec (.selftest .all v) s = .next (s.rejected .badTarget) ∧
    exec (.rdtest .all) s = .next (s.rejected .badTarget)

/-- 41 R178: a position at or beyond TW is dropped, with POS_RANGE, and is not clamped. -/
def Obligations.PositionsBeyondTheEndAreDropped : Prop :=
  ∀ (s : State) (pos : BitVec 16) (dt : Byte), Ready s → s.cfg.nmod * s.cfg.w ≤ pos.toNat →
    exec (.wrpos .char pos dt) s = .next (s.rejected .posRange) ∧
    exec (.wrpos .flash pos dt) s = .next (s.rejected .posRange)

/-- 20 R61 (whose seven rows of UDC_RAM the spec itself derives, notes/assumptions/19.md), 41 R176, R177, R179: an index
outside the space's range, with a target that passes, is rejected with BAD_INDEX; so is a chunk beyond FMAP. -/
def Obligations.BadIndexesAreRejected : Prop :=
  ∀ (s : State) (sp : Space) (tgt : Target) (ix dt : Byte) (k : BitVec 16), Ready s →
    ((∀ m, tgt = .one m → m.val < s.cfg.nmod) →
      (match sp with
        | .udcAddr => 0 < ix.toNat
        | .udcRam => 6 < ix.toNat
        | .ctrl => 0 < ix.toNat
        | .char => s.cfg.w ≤ ix.toNat
        | .flash => s.cfg.w ≤ ix.toNat) →
      exec (.wrlog sp tgt ix dt) s = .next (s.rejected .badIndex)) ∧
    (s.cfg.tw ≤ 8 * k.toNat → exec (.ldfmap k dt) s = .next (s.rejected .badIndex))

/-- 60 R251, R252, 10 R26: LASTERR takes the code of the first failing check of the command, or NONE. -/
def Obligations.LastErrTakesTheFirstFailingCheck : Prop :=
  ∀ (i : Instr) (s s' : State), Ready s → exec i s = .next s' → s'.lastErr = rejectionCode s.cfg i

/-- 60 R250: a command that is rejected changes LASTERR and ERRSEEN and nothing else: no bus signal, no shadow, no
phase. -/
def Obligations.RejectionIsPrecise : Prop :=
  ∀ (i : Instr) (s : State), Ready s → rejectionCode s.cfg i ≠ .none →
    exec i s = .next { s with lastErr := rejectionCode s.cfg i, errSeen := true }

/-- 10 R25: ERRSEEN is set at every edge that rejects a command, stays set until reset, and is 0 after reset. -/
def Obligations.ErrSeenIsStickyUntilReset : Prop :=
  ∀ s s' : State, step s = .next s' →
    (s.pins.rst = true → s'.errSeen = false) ∧
    (s.pins.rst = false → s.errSeen = true → s'.errSeen = true) ∧
    (∀ w, Accepts s w → s'.lastErr ≠ .none → s'.errSeen = true) ∧
    (s.pins.rst = false → s.errSeen = false → s'.errSeen = true → ∃ w, Accepts s w ∧ s'.lastErr ≠ .none) ∧
    State.reset.errSeen = false

/-! ### The multiplexer -/

/-- 41 R172, which the spec itself derives from R171 and 00 R9: the laws of Resolve. -/
def Obligations.ResolveIsAMonotoneBijection : Prop :=
  ∀ c : Config, c.ok = true →
    (∀ p < c.tw, (resolve c p).1 < c.nmod ∧ (resolve c p).2 < c.w ∧ p = (resolve c p).1 * c.w + (resolve c p).2) ∧
    (∀ m l, m < c.nmod → l < c.w → ∃ p < c.tw, resolve c p = (m, l)) ∧
    (∀ p q, p ≤ q → (resolve c p).1 ≤ (resolve c q).1) ∧
    (∀ p, (resolve c (p + 1)).1 = (resolve c p).1 + (if (p + 1) % c.w = 0 then 1 else 0))

/-- 41 R175: the write expansion of a target: one cycle to one module, one cycle to all modules with BCAST, one cycle a
module in ascending order without it; either way every module receives the same write once. -/
def Obligations.WriteExpansionGivesEveryTargetItsWrites : Prop :=
  ∀ (c : Config) (a v : Byte),
    (∀ m : Fin 255, m.val < c.nmod → expandW c a v (.one m) = [.wd a v [m.val]]) ∧
    (c.bcast = true → expandW c a v .all = [.wd a v (List.range c.nmod)]) ∧
    (c.bcast = false → expandW c a v .all = (List.range c.nmod).map fun m => .wd a v [m]) ∧
    (expandW c a v .all).flatMap Desc.modules = List.range c.nmod ∧
    ∀ d ∈ expandW c a v .all, ∃ mods, d = .wd a v mods

/-- 20 R62, R72, 00 R7: two legal (space, index) pairs with one register address are one pair. -/
def Obligations.RegisterAddressesAreDistinct : Prop :=
  ∀ (c : Config) (sp sp' : Space) (ix ix' : Nat), c.ok = true → indexOk c sp ix = true → indexOk c sp' ix' = true →
    regAddr c sp ix = regAddr c sp' ix' → sp = sp' ∧ ix = ix'

/-! ### The bus cycles -/

/-- 40 R131: the steps of a write cycle. With one edge of a dwell left and no reset, the next step's action is performed
and its dwell loaded; the last step gives way to the next waiting cycle or to IDLE. W1 is the first step of a cycle. -/
def Obligations.WriteCycleFollowsItsTable : Prop :=
  ∀ (s : State) (a v : Byte) (mods : List Nat), s.cfg.ok = true → s.pins.rst = false → s.cur = some (.wd a v mods) →
    s.cnt = 1 →
    (s.ph = .w1 → step s = .next { s.tick with ph := .w2, cnt := s.cfg.nCW, ceN := selectModules mods s.ceN }) ∧
    (s.ph = .w2 → step s = .next { s.tick with ph := .w3, cnt := s.cfg.nWP, wrN := false }) ∧
    (s.ph = .w3 → step s = .next { s.tick with ph := .w4, cnt := s.cfg.nWH, wrN := true }) ∧
    (s.ph = .w4 → step s =
      .next { s.tick with ph := .w5, cnt := s.cfg.nAH, ceN := List.replicate s.cfg.nmod true }) ∧
    (s.ph = .w5 → s.cq = [] → step s = .next { s.tick with ph := .idle, cnt := 0, cur := none }) ∧
    (∀ a' v' mods' q, s.ph = .w5 → s.cq = .wd a' v' mods' :: q → step s = .next { s.tick with
      ph := .w1, cnt := s.cfg.nAS, cur := some (.wd a' v' mods'), cq := q, aOut := a', dOut := v' }) ∧
    (∀ a' m k q, s.ph = .w5 → s.cq = .rd a' m k :: q → step s = .next { s.tick with
      ph := .r1, cnt := s.cfg.nAS, cur := some (.rd a' m k), cq := q, aOut := a' })

/-- 40 R134: the steps of a read cycle; TR is copied by a TEST read alone (10 R27). -/
def Obligations.ReadCycleFollowsItsTable : Prop :=
  ∀ (s : State) (a : Byte) (m : Nat) (k : ReadKind), s.cfg.ok = true → s.pins.rst = false →
    s.cur = some (.rd a m k) → s.cnt = 1 →
    (s.ph = .r1 → step s = .next { s.tick with ph := .r2, cnt := s.cfg.nDZ, dOe := false }) ∧
    (s.ph = .r2 → step s = .next { s.tick with ph := .r3, cnt := s.cfg.nCW, ceN := s.ceN.set m false }) ∧
    (s.ph = .r3 → step s = .next { s.tick with ph := .r4, cnt := s.cfg.nRS, rdN := false }) ∧
    (s.ph = .r4 → k = .raw → step s = .next { s.tick with ph := .r5, cnt := 1, rdata := s.pins.dIn }) ∧
    (s.ph = .r4 → k = .test → step s =
      .next { s.tick with ph := .r5, cnt := 1, rdata := s.pins.dIn, tr := s.pins.dIn.getLsbD s.cfg.cwl.tr }) ∧
    (s.ph = .r5 → step s = .next { s.tick with ph := .r6, cnt := s.cfg.nWH, rdN := true }) ∧
    (s.ph = .r6 → step s =
      .next { s.tick with ph := .r7, cnt := s.cfg.nDZ, ceN := List.replicate s.cfg.nmod true }) ∧
    (s.ph = .r7 → step s = .next { s.tick with ph := .r8, cnt := s.cfg.nAH, dOe := true }) ∧
    (s.ph = .r8 → s.cq = [] → step s = .next { s.tick with ph := .idle, cnt := 0, cur := none }) ∧
    (∀ a' v' mods' q, s.ph = .r8 → s.cq = .wd a' v' mods' :: q → step s = .next { s.tick with
      ph := .w1, cnt := s.cfg.nAS, cur := some (.wd a' v' mods'), cq := q, aOut := a', dOut := v' }) ∧
    (∀ a' m' k' q, s.ph = .r8 → s.cq = .rd a' m' k' :: q → step s = .next { s.tick with
      ph := .r1, cnt := s.cfg.nAS, cur := some (.rd a' m' k'), cq := q, aOut := a' })

/-- 10 R41, 40 R137: while more than one edge of a dwell is left, an edge without reset counts it down and changes nothing
else. -/
def Obligations.DwellCountsDownOneAnEdge : Prop :=
  ∀ (s : State) (d : Desc), s.cfg.ok = true → s.pins.rst = false → s.cur = some d → d.hasStep s.ph = true → 1 < s.cnt →
    step s = .next { s.tick with cnt := s.cnt - 1 }

/-! ### Invariants and whole-machine rules -/

/-- The state after reset has the invariant, under every configuration of HDSPBUS (10 R22, 70 R280); in particular
`State.reset`, whose configuration is the model's choice (notes/assumptions/2.md). -/
def Obligations.ResetStateHasTheInvariant : Prop :=
  (∀ c : Config, c.ok = true → Inv (State.resetOf c)) ∧ Inv State.reset

/-- Every edge, reset edges included, keeps the invariant: the sequencer's bookkeeping (10 R32, R36, R39 to R42) and the
bus outputs that 40 R131, R134 and R140 give each phase. -/
def Obligations.EveryStepKeepsTheInvariant : Prop :=
  ∀ s s' : State, Inv s → step s = .next s' → Inv s'

/-- In a state with the invariant every edge has a next state: no input, no command and no data ends a run. -/
def Obligations.EveryEdgeHasANextState : Prop :=
  ∀ s : State, Inv s → ∃ s', step s = .next s'

/-- 40 R140, which the spec itself derives from R131, R134, R137 and R280: after every edge from a state with the
invariant, (1) to (3) and (5) to (7) hold; clause (4), where R280 lets a reset edge clear both registers, is the model's
reading of R140 (4) (DEDUCED, notes/assumptions/24.md): A_OUT and D_OUT are the same before and after the edge while a
module is selected after it, and without a reset they change only at an edge that enters W1 or R1; (8) without a reset
no strobe edge meets a chip-select edge and no chip-select edge meets a D_OE edge. -/
def Obligations.BusOutputsObeyTheTimingContract : Prop :=
  ∀ s s' : State, Inv s → step s = .next s' →
    ¬ (s'.wrN = false ∧ s'.rdN = false) ∧
    (s'.wrN = false → s'.ph = .w3 ∧ ∃ m < s'.cfg.nmod, s'.ceN[m]? = some false) ∧
    (s'.rdN = false → (s'.ph = .r4 ∨ s'.ph = .r5) ∧ s'.dOe = false ∧
      ∃ m < s'.cfg.nmod, s'.ceN[m]? = some false ∧ ∀ j : Nat, s'.ceN[j]? = some false → j = m) ∧
    ((∃ m : Nat, s'.ceN[m]? = some false) → s'.aOut = s.aOut ∧ s'.dOut = s.dOut) ∧
    (s.pins.rst = false → (s'.aOut ≠ s.aOut ∨ s'.dOut ≠ s.dOut) → s.ph ≠ s'.ph ∧ (s'.ph = .w1 ∨ s'.ph = .r1)) ∧
    (s'.dOe = false → s'.ph.turnsRound = true) ∧
    ((∃ m : Nat, s'.ceN[m]? = some false) → s'.ph.selects = true) ∧
    (∀ a v mods, s'.cur = some (.wd a v mods) → s'.ph.selects = true → ∀ m : Nat, s'.ceN[m]? = some false ↔ m ∈ mods) ∧
    (s.pins.rst = false →
      ¬ ((s'.wrN ≠ s.wrN ∨ s'.rdN ≠ s.rdN) ∧ s'.ceN ≠ s.ceN) ∧ ¬ (s'.ceN ≠ s.ceN ∧ s'.dOe ≠ s.dOe))

/-- 10 R34 to R37: without a reset, each bus register changes only at an edge that enters a step the rule names, D_OE
and the strobes to the value that step gives; D_OE is 1 in IDLE and in every write cycle; and the reset values. -/
def Obligations.BusRegistersChangeOnlyAtTheirSteps : Prop :=
  (∀ s s' : State, Inv s → step s = .next s' → s.pins.rst = false →
    (s'.aOut ≠ s.aOut → s.ph ≠ s'.ph ∧ (s'.ph = .w1 ∨ s'.ph = .r1)) ∧
    (s'.dOut ≠ s.dOut → s.ph ≠ s'.ph ∧ s'.ph = .w1) ∧
    (s'.dOe ≠ s.dOe → s.ph ≠ s'.ph ∧ ((s'.ph = .r2 ∧ s'.dOe = false) ∨ (s'.ph = .r8 ∧ s'.dOe = true))) ∧
    (s'.ceN ≠ s.ceN → s.ph ≠ s'.ph ∧ (s'.ph = .w2 ∨ s'.ph = .w5 ∨ s'.ph = .r3 ∨ s'.ph = .r7)) ∧
    (s'.wrN ≠ s.wrN → s.ph ≠ s'.ph ∧ ((s'.ph = .w3 ∧ s'.wrN = false) ∨ (s'.ph = .w4 ∧ s'.wrN = true))) ∧
    (s'.rdN ≠ s.rdN → s.ph ≠ s'.ph ∧ ((s'.ph = .r4 ∧ s'.rdN = false) ∨ (s'.ph = .r6 ∧ s'.rdN = true))) ∧
    ((s'.ph = .idle ∨ s'.ph.isWrite = true) → s'.dOe = true) ∧
    s'.ceN.length = s'.cfg.nmod) ∧
  ∀ c : Config, (State.resetOf c).aOut = 0x00 ∧ (State.resetOf c).dOut = 0x00 ∧ (State.resetOf c).dOe = true ∧
    (State.resetOf c).ceN = List.replicate c.nmod true ∧ (State.resetOf c).wrN = true ∧ (State.resetOf c).rdN = true

/-- 10 R27, R29: at the sample step RDATA takes `d_in` as it stands before the edge, and TR takes its bit CWL.TR in a read
of kind TEST and stays in one of kind RAW; at every other edge without a reset both hold; a reset makes both 0. -/
def Obligations.SampleStepAloneWritesRdataAndTr : Prop :=
  ∀ s s' : State, step s = .next s' →
    (s.pins.rst = true → s'.rdata = 0x00 ∧ s'.tr = false) ∧
    (s.pins.rst = false → s.ph = .r4 → s'.ph = .r5 →
      s'.rdata = s.pins.dIn ∧
      (∀ a m, s.cur = some (.rd a m .test) → s'.tr = s.pins.dIn.getLsbD s.cfg.cwl.tr) ∧
      (∀ a m, s.cur = some (.rd a m .raw) → s'.tr = s.tr)) ∧
    (s.pins.rst = false → ¬ (s.ph = .r4 ∧ s'.ph = .r5) → s'.rdata = s.rdata ∧ s'.tr = s.tr)

/-- 10 R26: LASTERR is written at every edge that accepts a word, with the code of its rejection or NONE, and holds at
every other edge without a reset; its value is always one of the codes 0 to 4; a reset makes it NONE. -/
def Obligations.LastErrIsWrittenAtEveryAcceptance : Prop :=
  ∀ s s' : State, step s = .next s' →
    (s.pins.rst = true → s'.lastErr = .none) ∧
    (∀ w i, Accepts s w → decode w = .ok i → s'.lastErr = rejectionCode s.cfg i) ∧
    (∀ w r, Accepts s w → decode w = .error r → s'.lastErr = .illegal) ∧
    (s.pins.rst = false → (∀ w, ¬ Accepts s w) → s'.lastErr = s.lastErr) ∧
    s'.lastErr.code.toNat ≤ 4 ∧ State.reset.lastErr = .none ∧ CmdErr.none.code = 0

/-- 10 R24: BUSY is 1 exactly when PH is not IDLE; it rises at the edge that accepts a command that is not rejected and
is not LDFMAP, and only there; it falls at the edge at which the last dwell of the last cycle elapses, or at a reset,
and only there. -/
def Obligations.BusyRisesAtAcceptanceAndFallsAtTheLastDwell : Prop :=
  (∀ s s' : State, Inv s → step s = .next s' →
    (s'.busy = true ↔ s'.ph ≠ .idle) ∧
    (s.busy = false → (s'.busy = true ↔
      ∃ w i, Accepts s w ∧ decode w = .ok i ∧ rejectionCode s.cfg i = .none ∧ ∀ k dt, i ≠ .ldfmap k dt)) ∧
    (s.busy = true → (s'.busy = false ↔
      s.pins.rst = true ∨ (s.cnt = 1 ∧ s.cq = [] ∧ (s.ph = .w5 ∨ s.ph = .r8))))) ∧
  State.reset.busy = false

/-- 10 R44: no step changes the configuration. -/
def Obligations.NoStepChangesTheConfiguration : Prop :=
  ∀ s s' : State, step s = .next s' → s'.cfg = s.cfg

/-- 10 R27, R29, R31, R32, R39: without a reset, each field of the shadow, the bitmap, RDATA and TR changes only at an
edge that the rule names: the acceptance of its own command, or a sample step of its kind of read. -/
def Obligations.RegistersChangeOnlyByTheirOwnCommands : Prop :=
  ∀ s s' : State, step s = .next s' → s.pins.rst = false →
    (s'.cwg.br ≠ s.cwg.br → ∃ w br, Accepts s w ∧ decode w = .ok (.setbri br) ∧ s'.cwg = { s.cwg with br := br }) ∧
    (s'.cwg.fe ≠ s.cwg.fe → ∃ w v, Accepts s w ∧ decode w = .ok (.setflen v) ∧ s'.cwg = { s.cwg with fe := v }) ∧
    (s'.cwg.be ≠ s.cwg.be → ∃ w v, Accepts s w ∧ decode w = .ok (.setblen v) ∧ s'.cwg = { s.cwg with be := v }) ∧
    (s'.cwg.cl ≠ s.cwg.cl → ∃ w v, Accepts s w ∧ decode w = .ok (.setclr v) ∧ s'.cwg = { s.cwg with cl := v }) ∧
    (s'.streq ≠ s.streq → ∃ w t v, Accepts s w ∧ decode w = .ok (.selftest t v)) ∧
    (s'.fmap ≠ s.fmap → ∃ w k dt, Accepts s w ∧ decode w = .ok (.ldfmap k dt)) ∧
    (s'.rdata ≠ s.rdata → s'.ph = .r5 ∧ s'.rdata = s.pins.dIn) ∧
    (s'.tr ≠ s.tr → s'.ph = .r5 ∧ s'.tr = s.pins.dIn.getLsbD s.cfg.cwl.tr ∧ ∃ a m, s'.cur = some (.rd a m .test))

/-! ### Runs of a command -/

/-- 20 R75, R77, 40 R130, and 40 R139 and 70 R293, which the spec itself derives from the steps: from its acceptance
edge, with no reset, a command keeps the block busy for exactly the edges of the table of 70 R293, and then the port is
ready; over those edges the bus performs one write or one sample for each descriptor the command emitted, in the order
it emitted them, and the shadow, the bitmap and LASTERR stay. -/
def Obligations.CommandRunsItsCyclesInOrderAndThenIsReady : Prop :=
  ∀ (i : Instr) (s s1 : State), Inv s → s.ph = .idle → exec i s = .next s1 → NoReset (commandEdges s i) s1 →
    (∀ k < commandEdges s i, ∃ t ev, runEdges k s1 = some (t, ev) ∧ t.busy = true) ∧
    ∃ s2 ev, runEdges (commandEdges s i) s1 = some (s2, ev) ∧ s2.cmdReady = true ∧
      ev.map Event.desc = s1.cycles ∧
      s2.cwg = s1.cwg ∧ s2.streq = s1.streq ∧ s2.fmap = s1.fmap ∧ s2.lastErr = s1.lastErr ∧ s2.errSeen = s1.errSeen

/-- 40 R133: from the edge at which WR_N falls, with no reset, it stays low for exactly N_WP edges, which is at least the
device minimum; the data, the address and the chip-selects do not move meanwhile. -/
def Obligations.WriteStrobeIsLowForExactlyItsWidth : Prop :=
  ∀ s0 s : State, Inv s0 → step s0 = .next s → s0.wrN = true → s.wrN = false → NoReset s.cfg.nWP s →
    (∀ k < s.cfg.nWP, ∃ t ev, runEdges k s = some (t, ev) ∧ t.wrN = false ∧
      t.aOut = s.aOut ∧ t.dOut = s.dOut ∧ t.ceN = s.ceN) ∧
    (∃ t ev, runEdges s.cfg.nWP s = some (t, ev) ∧ t.wrN = true) ∧
    s.cfg.tWpMin ≤ s.cfg.nWP * s.cfg.tTick

/-- 40 R136: the sample step comes exactly N_RS edges after RD_N falls, with RD_N still low; RDATA is then `d_in` as it
stood before that edge (whose inputs the state lists), whatever it was; RD_N rises one edge later; and N_RS ticks meet
the device minimum. -/
def Obligations.ReadSamplesTheDataPinsAfterTheSetupTime : Prop :=
  ∀ (s0 s : State) (e : EdgeInput), Inv s0 → step s0 = .next s → s0.rdN = true → s.rdN = false →
    NoReset (s.cfg.nRS + 1) s → s.inputs[s.cfg.nRS - 1]? = some e →
    (∀ k < s.cfg.nRS, ∃ t ev, runEdges k s = some (t, ev) ∧ t.ph = .r4 ∧ t.rdN = false ∧ t.rdata = s.rdata) ∧
    (∃ t ev, runEdges s.cfg.nRS s = some (t, ev) ∧ t.ph = .r5 ∧ t.rdN = false ∧ t.rdata = e.dIn) ∧
    (∃ t ev, runEdges (s.cfg.nRS + 1) s = some (t, ev) ∧ t.rdN = true ∧ t.rdata = e.dIn) ∧
    s.cfg.tRsMin ≤ s.cfg.nRS * s.cfg.tTick

/-- 42 R220, 40 R143: with no reset, RDREG and RDTEST end, after L_R edges, with RDATA the byte on `d_in` before the
sample edge (whose inputs the state lists); RDTEST copies its TR bit to TR, RDREG leaves TR; the shadow stays. -/
def Obligations.ReadCommandsDeliverTheSampledByte : Prop :=
  ∀ (s s1 : State) (m : Fin 255) (ad : Byte) (e : EdgeInput), Inv s → s.ph = .idle → m.val < s.cfg.nmod →
    NoReset (readEdges s.cfg) s → s.inputs[s.cfg.nAS + s.cfg.nDZ + s.cfg.nCW + s.cfg.nRS - 1]? = some e →
    (exec (.rdreg (.one m) ad) s = .next s1 → ∃ s2 ev, runEdges (readEdges s.cfg) s1 = some (s2, ev) ∧
      s2.ph = .idle ∧ s2.rdata = e.dIn ∧ s2.tr = s.tr ∧ s2.cwg = s.cwg ∧ s2.streq = s.streq) ∧
    (exec (.rdtest (.one m)) s = .next s1 → ∃ s2 ev, runEdges (readEdges s.cfg) s1 = some (s2, ev) ∧
      s2.ph = .idle ∧ s2.rdata = e.dIn ∧ s2.tr = e.dIn.getLsbD s.cfg.cwl.tr ∧ s2.cwg = s.cwg ∧ s2.streq = s.streq)

/-- 42 R221 (5), which the spec itself derives from R211 and R213 to R219, first half: a global setter makes the shadow
written through, whatever the modules held before. -/
def Obligations.GlobalSettersWriteTheShadowThrough : Prop :=
  ∀ (s s' : State) (dev : Nat → Option Byte) (br : BitVec 3) (v : Bool), Inv s → s.ph = .idle →
    (exec (.setbri br) s = .next s' ∨ exec (.setflen v) s = .next s' ∨ exec (.setblen v) s = .next s' ∨
      exec (.setclr v) s = .next s') →
    WrittenThrough s' dev

/-- 42 R221 (5), which the spec itself derives, second half: once written through, the shadow stays so at every edge
without a reset that does not accept a raw write to the control-word address: the last byte written to module m's
control word is, or is about to be, CWbyte(m). -/
def Obligations.TheShadowStaysWrittenThrough : Prop :=
  ∀ (s s' : State) (dev : Nat → Option Byte), Inv s → step s = .next s' → s.pins.rst = false →
    (∀ w i, Accepts s w → decode w = .ok i → rawControlWrite s.cfg i = false) →
    WrittenThrough s dev → WrittenThrough s' (recordEvents s.cfg.rat.ctrl (busEvent s s') dev)
end

