-- ==== Sys2Proof/Laws/Config.lean ====
section
/-! SUPPORT. What a legal configuration (00 R7) gives its users. -/

namespace Sys2Proof

theorem allDistinct_nodup {α : Type} [BEq α] [LawfulBEq α] : ∀ {l : List α}, allDistinct l = true → l.Nodup
  | [], _ => List.nodup_nil
  | x :: xs, h => by
    simp only [allDistinct, Bool.and_eq_true, Bool.not_eq_true', List.contains_eq_mem, decide_eq_false_iff_not] at h
    exact List.nodup_cons.mpr ⟨h.1, allDistinct_nodup h.2⟩

namespace Config

theorem ok_parts {c : Config} (h : c.ok = true) :
    c.sizesOk = true ∧ c.dwellsOk = true ∧ c.timingOk = true ∧ c.ratOk = true ∧ c.cwlOk = true := by
  simp only [ok, Bool.and_eq_true] at h
  exact ⟨h.1.1.1.1, h.1.1.1.2, h.1.1.2, h.1.2, h.2⟩

theorem ok_sizes {c : Config} (h : c.ok = true) :
    1 ≤ c.nmod ∧ c.nmod ≤ 255 ∧ 1 ≤ c.w ∧ c.w ≤ 256 ∧ c.tw ≤ 65535 :=
  of_decide_eq_true (ok_parts h).1

theorem ok_dwells {c : Config} (h : c.ok = true) :
    1 ≤ c.nAS ∧ 1 ≤ c.nCW ∧ 1 ≤ c.nWP ∧ 1 ≤ c.nWH ∧ 1 ≤ c.nAH ∧ 1 ≤ c.nDZ ∧ 1 ≤ c.nRS :=
  of_decide_eq_true (ok_parts h).2.1

theorem ok_timing {c : Config} (h : c.ok = true) :
    0 < c.tTick ∧ c.tWpMin ≤ c.nWP * c.tTick ∧ c.tRsMin ≤ c.nRS * c.tTick ∧ c.tAsMin ≤ c.nAS * c.tTick :=
  of_decide_eq_true (ok_parts h).2.2.1

theorem ok_rat_lengths {c : Config} (h : c.ok = true) :
    c.rat.udcRam.length = 7 ∧ c.rat.char.length = c.w ∧ c.rat.flash.length = c.w := by
  have h := (ok_parts h).2.2.2.1
  simp only [ratOk, Bool.and_eq_true, decide_eq_true_eq] at h
  exact h.1

theorem ok_rat_nodup {c : Config} (h : c.ok = true) : c.rat.addresses.Nodup := by
  have h := (ok_parts h).2.2.2.1
  simp only [ratOk, Bool.and_eq_true] at h
  exact allDistinct_nodup h.2

theorem ok_cwl_range {c : Config} (h : c.ok = true) : ∀ p ∈ c.cwl.positions, 3 ≤ p ∧ p ≤ 7 := by
  have h := (ok_parts h).2.2.2.2
  simp only [cwlOk, Bool.and_eq_true, List.all_eq_true, decide_eq_true_eq] at h
  exact h.1

theorem ok_cwl_nodup {c : Config} (h : c.ok = true) : c.cwl.positions.Nodup := by
  have h := (ok_parts h).2.2.2.2
  simp only [cwlOk, Bool.and_eq_true] at h
  exact allDistinct_nodup h.2

end Config

end Sys2Proof
end

