-- ==== Sys2Proof/Laws/Decode.lean ====
section
/-! SUPPORT. The fields of a word and the rows of the decode table: a word is its five fields side by side, and a row's
match/mask test is one test a field. -/

namespace Sys2Proof

/-- The fields of a word laid out from its five fields (30 R91). -/
theorem fields_of_append (a b : BitVec 4) (c d e : Byte) :
    opField (a ++ b ++ c ++ d ++ e) = a ∧ spField (a ++ b ++ c ++ d ++ e) = b ∧
      tsField (a ++ b ++ c ++ d ++ e) = c ∧ adField (a ++ b ++ c ++ d ++ e) = d ∧
      dtField (a ++ b ++ c ++ d ++ e) = e ∧ posField (a ++ b ++ c ++ d ++ e) = c ++ d := by
  refine ⟨?_, ?_, ?_, ?_, ?_, ?_⟩ <;>
  · apply BitVec.eq_of_getLsbD_eq
    intro i hi
    simp only [opField, spField, tsField, adField, dtField, posField, BitVec.getLsbD_extractLsb',
      BitVec.getLsbD_append, hi, decide_true, Bool.true_and]
    repeat' split
    all_goals first | omega | (congr 1; omega)

/-- A word is its fields side by side. -/
theorem word_eq_fields (w : Word) : w = opField w ++ spField w ++ tsField w ++ adField w ++ dtField w := by
  apply BitVec.eq_of_getLsbD_eq
  intro i hi
  simp only [opField, spField, tsField, adField, dtField, BitVec.getLsbD_extractLsb', BitVec.getLsbD_append]
  repeat' split
  all_goals
    rw [decide_eq_true (by omega), Bool.true_and]
    congr 1
    omega

/-- Two words laid out from fields are equal exactly when the fields are. -/
theorem append_fields_inj {a b a' b' : BitVec 4} {c d e c' d' e' : Byte} :
    a ++ b ++ c ++ d ++ e = a' ++ b' ++ c' ++ d' ++ e' ↔ a = a' ∧ b = b' ∧ c = c' ∧ d = d' ∧ e = e' := by
  constructor
  · intro h
    obtain ⟨h1, h2, h3, h4, h5, _⟩ := fields_of_append a b c d e
    obtain ⟨k1, k2, k3, k4, k5, _⟩ := fields_of_append a' b' c' d' e'
    rw [h] at h1 h2 h3 h4 h5
    exact ⟨h1.symm.trans k1, h2.symm.trans k2, h3.symm.trans k3, h4.symm.trans k4, h5.symm.trans k5⟩
  · rintro ⟨rfl, rfl, rfl, rfl, rfl⟩; rfl

/-- A match/mask test is one test a field. -/
theorem and_mask_iff (w : Word) (ma mb va vb : BitVec 4) (mc md me vc vd ve : Byte) :
    w &&& (ma ++ mb ++ mc ++ md ++ me) = va ++ vb ++ vc ++ vd ++ ve ↔
      opField w &&& ma = va ∧ spField w &&& mb = vb ∧ tsField w &&& mc = vc ∧ adField w &&& md = vd ∧
        dtField w &&& me = ve := by
  conv_lhs => rw [word_eq_fields w]
  rw [BitVec.and_append, BitVec.and_append, BitVec.and_append, BitVec.and_append]
  exact append_fields_inj

/-- TS and the target it names determine each other (30 R95). -/
@[simp] theorem targetOf_code (t : Target) : targetOf t.code = t := by
  cases t with
  | all => rfl
  | one m =>
    have h : (BitVec.ofNat 8 m.val).toNat = m.val := by
      simp; omega
    simp [targetOf, Target.code, h]

@[simp] theorem code_targetOf (ts : Byte) : (targetOf ts).code = ts := by
  unfold targetOf
  split
  · simp [Target.code]
  · rename_i h
    apply BitVec.eq_of_toNat_eq
    have := ts.isLt
    simp [Target.code]; omega

/-- SP and the space it names determine each other (30 R94). -/
@[simp] theorem spaceOf_code (sp : Space) : spaceOf sp.code = some sp := by cases sp <;> rfl

theorem code_of_spaceOf {sp : BitVec 4} {x : Space} (h : spaceOf sp = some x) : x.code = sp := by
  revert x; revert sp; decide

/-! ### The rows of the table -/

/-- A row's match/mask test, as the conditions on the fields that it amounts to. -/
theorem mask_test_iff {w m v : Word} {P : Prop}
    (h : (opField w &&& opField m = opField v ∧ spField w &&& spField m = spField v ∧
      tsField w &&& tsField m = tsField v ∧ adField w &&& adField m = adField v ∧
      dtField w &&& dtField m = dtField v) ↔ P) : (w &&& m == v) = true ↔ P := by
  rw [beq_iff_eq, ← h]
  conv_lhs => rw [word_eq_fields m, word_eq_fields v]
  exact and_mask_iff ..

theorem and_all_ones4 : ∀ x : BitVec 4, x &&& 15#4 = x := by decide

theorem and_all_ones8 : ∀ x : Byte, x &&& 255#8 = x := by decide

theorem wrreg_row_iff (w : Word) : (w &&& (0xFF000000 : Word) == (0x10000000 : Word)) = true ↔
    opField w = 1 ∧ spField w = 0 :=
  mask_test_iff (by simp [opField, spField, tsField, adField, dtField, and_all_ones4])

theorem rdreg_row_iff (w : Word) : (w &&& (0xFF0000FF : Word) == (0x20000000 : Word)) = true ↔
    opField w = 2 ∧ spField w = 0 ∧ dtField w = 0 :=
  mask_test_iff (by simp [opField, spField, tsField, adField, dtField, and_all_ones4, and_all_ones8])

theorem wrlog_row_iff (w : Word) : (w &&& (0xF0000000 : Word) == (0x30000000 : Word)) = true ↔
    opField w = 3 :=
  mask_test_iff (by simp [opField, spField, tsField, adField, dtField, and_all_ones4])

theorem wrpos_row_iff (w : Word) : (w &&& (0xF0000000 : Word) == (0x40000000 : Word)) = true ↔
    opField w = 4 :=
  mask_test_iff (by simp [opField, spField, tsField, adField, dtField, and_all_ones4])

theorem setbri_row_iff (w : Word) : (w &&& (0xFFFFFFF8 : Word) == (0x50000000 : Word)) = true ↔
    opField w = 5 ∧ spField w = 0 ∧ tsField w = 0 ∧ adField w = 0 ∧ dtField w &&& 0xF8 = 0 :=
  mask_test_iff (by simp [opField, spField, tsField, adField, dtField, and_all_ones4, and_all_ones8])

theorem setflen_row_iff (w : Word) : (w &&& (0xFFFFFFFE : Word) == (0x60000000 : Word)) = true ↔
    opField w = 6 ∧ spField w = 0 ∧ tsField w = 0 ∧ adField w = 0 ∧ dtField w &&& 0xFE = 0 :=
  mask_test_iff (by simp [opField, spField, tsField, adField, dtField, and_all_ones4, and_all_ones8])

theorem setblen_row_iff (w : Word) : (w &&& (0xFFFFFFFE : Word) == (0x70000000 : Word)) = true ↔
    opField w = 7 ∧ spField w = 0 ∧ tsField w = 0 ∧ adField w = 0 ∧ dtField w &&& 0xFE = 0 :=
  mask_test_iff (by simp [opField, spField, tsField, adField, dtField, and_all_ones4, and_all_ones8])

theorem setclr_row_iff (w : Word) : (w &&& (0xFFFFFFFE : Word) == (0x80000000 : Word)) = true ↔
    opField w = 8 ∧ spField w = 0 ∧ tsField w = 0 ∧ adField w = 0 ∧ dtField w &&& 0xFE = 0 :=
  mask_test_iff (by simp [opField, spField, tsField, adField, dtField, and_all_ones4, and_all_ones8])

theorem selftest_row_iff (w : Word) : (w &&& (0xFF00FFFE : Word) == (0x90000000 : Word)) = true ↔
    opField w = 9 ∧ spField w = 0 ∧ adField w = 0 ∧ dtField w &&& 0xFE = 0 :=
  mask_test_iff (by simp [opField, spField, tsField, adField, dtField, and_all_ones4, and_all_ones8])

theorem rdtest_row_iff (w : Word) : (w &&& (0xFF00FFFF : Word) == (0xA0000000 : Word)) = true ↔
    opField w = 10 ∧ spField w = 0 ∧ adField w = 0 ∧ dtField w = 0 :=
  mask_test_iff (by simp [opField, spField, tsField, adField, dtField, and_all_ones4, and_all_ones8])

theorem ldfmap_row_iff (w : Word) : (w &&& (0xFF000000 : Word) == (0xB0000000 : Word)) = true ↔
    opField w = 11 ∧ spField w = 0 :=
  mask_test_iff (by simp [opField, spField, tsField, adField, dtField, and_all_ones4])

theorem flashmap_row_iff (w : Word) : (w &&& (0xFFFFFFFF : Word) == (0xC0000000 : Word)) = true ↔
    opField w = 12 ∧ spField w = 0 ∧ tsField w = 0 ∧ adField w = 0 ∧ dtField w = 0 :=
  mask_test_iff (by simp [opField, spField, tsField, adField, dtField, and_all_ones4, and_all_ones8])

/-- A word decodes to a command exactly when the first row that takes it builds that command. -/
theorem decode_eq_ok_iff (w : Word) (i : Instr) :
    decode w = .ok i ↔ (rows.findSome? fun r => if r.hits w then r.build w else none) = some i := by
  unfold decode
  split
  · rename_i j h
    rw [h]; simp
  · rename_i h
    rw [h]; simp only [reduceCtorEq, iff_false]
    split <;> (try split) <;> simp

end Sys2Proof
end

