-- ==== Sys2Proof/Laws/Operands.lean ====
section
/-! SUPPORT. What the combinational functions compute: bits of a byte, module sets, the bitmap's chunks, and the register
addresses a legal configuration gives. -/

namespace Sys2Proof.Machine

/-- The bits of a byte after `b[i] <- v`. -/
theorem getLsbD_setBit (b : Byte) (i j : Nat) (v : Bool) :
    (setBit b i v).getLsbD j = if j = i ∧ j < 8 then v else b.getLsbD j := by
  have hone : ∀ k, (1#8).getLsbD k = decide (k = 0) := by
    intro k; cases k <;> simp
  cases v <;> by_cases hj : j < 8 <;> by_cases hij : j = i <;>
    simp_all [setBit, BitVec.getLsbD_of_ge] <;> omega

/-- A chunk's loop writes the bits of its chunk that exist and leaves the others. -/
theorem loadBits_spec (c : Config) (k : Nat) (dt : Byte) (n : Nat) (f : List Bool) :
    let g := (List.range n).foldl (fun f i => if 8 * k + i < c.tw then f.set (8 * k + i) (dt.getLsbD i) else f) f
    g.length = f.length ∧
      ∀ j, j < f.length → j < c.tw →
        g.getD j false = if 8 * k ≤ j ∧ j < 8 * k + n then dt.getLsbD (j - 8 * k) else f.getD j false := by
  induction n with
  | zero => simp
  | succ n ih =>
    simp only [List.range_succ, List.foldl_append, List.foldl_cons, List.foldl_nil] at ih ⊢
    obtain ⟨hl, hb⟩ := ih
    generalize List.foldl (fun f i => if 8 * k + i < c.tw then f.set (8 * k + i) (dt.getLsbD i) else f) f
      (List.range n) = g at hl hb ⊢
    split
    · refine ⟨by simp [hl], fun j hj hj' => ?_⟩
      have := hb j hj hj'
      by_cases hjk : 8 * k + n = j
      · subst hjk
        simp [hl, hj]
      · simp only [List.getD_eq_getElem?_getD, List.getElem?_set_ne hjk] at this ⊢
        rw [this]
        by_cases h1 : 8 * k ≤ j ∧ j < 8 * k + n
        · rw [if_pos h1, if_pos (by omega)]
        · rw [if_neg h1, if_neg (by omega)]
    · refine ⟨hl, fun j hj hj' => ?_⟩
      rw [hb j hj hj']
      by_cases h1 : 8 * k ≤ j ∧ j < 8 * k + n
      · rw [if_pos h1, if_pos (by omega)]
      · rw [if_neg h1, if_neg (by omega)]

/-- No chunk changes the length of the bitmap. -/
@[simp] theorem loadChunk_length (c : Config) (k : Nat) (dt : Byte) (f : List Bool) :
    (loadChunk c k dt f).length = f.length :=
  (loadBits_spec c k dt 8 f).1

/-- The control word's address. -/
@[simp] theorem regAddr_ctrl (c : Config) (ix : Nat) : regAddr c .ctrl ix = c.rat.ctrl := rfl

/-- A legal index has an entry in the register address table. -/
theorem regAddr_mem {c : Config} (h : c.ok = true) {sp : Space} {ix : Nat} (hx : indexOk c sp ix = true) :
    regAddr c sp ix ∈ c.rat.addresses := by
  obtain ⟨h1, h2, h3⟩ := Config.ok_rat_lengths h
  cases sp <;> simp only [indexOk, decide_eq_true_eq] at hx <;>
    simp only [regAddr, RegTable.addresses, List.mem_cons, List.mem_append] <;> try simp
  · rw [List.getElem?_eq_getElem (by omega)]; simp
  · rw [List.getElem?_eq_getElem (by omega)]; simp
  · rw [List.getElem?_eq_getElem (by omega)]; simp

/-- Only the control word has the control word's address. -/
theorem regAddr_ne_ctrl {c : Config} (h : c.ok = true) {sp : Space} {ix : Nat} (hx : indexOk c sp ix = true)
    (hs : sp ≠ .ctrl) : regAddr c sp ix ≠ c.rat.ctrl := by
  obtain ⟨h1, h2, h3⟩ := Config.ok_rat_lengths h
  have hn := Config.ok_rat_nodup h
  simp only [RegTable.addresses, List.nodup_cons, List.mem_cons, List.mem_append, not_or] at hn
  obtain ⟨⟨hn1, _⟩, ⟨⟨hn2, hn3⟩, hn4⟩, _⟩ := hn
  cases sp <;> simp only [indexOk, decide_eq_true_eq] at hx <;> simp only [regAddr]
  · exact hn1
  · rw [List.getD_eq_getElem?_getD, List.getElem?_eq_getElem (by omega)]
    exact fun he => hn2 (he ▸ List.getElem_mem _)
  · exact absurd rfl hs
  · rw [List.getD_eq_getElem?_getD, List.getElem?_eq_getElem (by omega)]
    exact fun he => hn3 (he ▸ List.getElem_mem _)
  · rw [List.getD_eq_getElem?_getD, List.getElem?_eq_getElem (by omega)]
    exact fun he => hn4 (he ▸ List.getElem_mem _)

/-- A position in range resolves to an existing module and a legal local address (41 R172 (1)). -/
theorem resolve_range {c : Config} (h : c.ok = true) {p : Nat} (hp : p < c.tw) :
    (resolve c p).1 < c.nmod ∧ (resolve c p).2 < c.w := by
  have hw := (Config.ok_sizes h).2.2.1
  exact ⟨Nat.div_lt_of_lt_mul (by simpa [Config.tw, Nat.mul_comm] using hp), Nat.mod_lt _ (by omega)⟩

/-- The modules 0 to n are module 0 and then the others. -/
theorem range_pred_cons {n : Nat} (h : 1 ≤ n) : List.range n = 0 :: (List.range (n - 1)).map (· + 1) := by
  obtain ⟨k, rfl⟩ : ∃ k, n = k + 1 := ⟨n - 1, by omega⟩
  simpa using List.range_succ_eq_map (n := k)

/-- The test of 42 R214 as a proposition. -/
theorem uniformReq_iff (s : State) :
    uniformReq s = true ↔ ∀ m < s.cfg.nmod, s.selfTestReq m = s.selfTestReq 0 := by
  simp [uniformReq, allMods]

/-- CWbyte depends on the request bits only through the module's own bit. -/
theorem cwByte_congr_module {s : State} {m m' : Nat} (h : s.selfTestReq m = s.selfTestReq m') :
    cwByte s m = cwByte s m' := by
  simp [cwByte, h]

end Sys2Proof.Machine
end

