-- ==== Sys2Proof/Laws/State.lean ====
section
/-! SUPPORT. One lemma per field per named update of the state: what the update leaves, and what it sets. -/

namespace Sys2Proof.Machine

/-! ### tick -/

@[simp] theorem State.tick_cfg (s : State) : s.tick.cfg = s.cfg := by unfold State.tick; split <;> rfl
@[simp] theorem State.tick_errSeen (s : State) : s.tick.errSeen = s.errSeen := by unfold State.tick; split <;> rfl
@[simp] theorem State.tick_lastErr (s : State) : s.tick.lastErr = s.lastErr := by unfold State.tick; split <;> rfl
@[simp] theorem State.tick_tr (s : State) : s.tick.tr = s.tr := by unfold State.tick; split <;> rfl
@[simp] theorem State.tick_rdata (s : State) : s.tick.rdata = s.rdata := by unfold State.tick; split <;> rfl
@[simp] theorem State.tick_cwg (s : State) : s.tick.cwg = s.cwg := by unfold State.tick; split <;> rfl
@[simp] theorem State.tick_streq (s : State) : s.tick.streq = s.streq := by unfold State.tick; split <;> rfl
@[simp] theorem State.tick_fmap (s : State) : s.tick.fmap = s.fmap := by unfold State.tick; split <;> rfl
@[simp] theorem State.tick_aOut (s : State) : s.tick.aOut = s.aOut := by unfold State.tick; split <;> rfl
@[simp] theorem State.tick_dOut (s : State) : s.tick.dOut = s.dOut := by unfold State.tick; split <;> rfl
@[simp] theorem State.tick_dOe (s : State) : s.tick.dOe = s.dOe := by unfold State.tick; split <;> rfl
@[simp] theorem State.tick_ceN (s : State) : s.tick.ceN = s.ceN := by unfold State.tick; split <;> rfl
@[simp] theorem State.tick_wrN (s : State) : s.tick.wrN = s.wrN := by unfold State.tick; split <;> rfl
@[simp] theorem State.tick_rdN (s : State) : s.tick.rdN = s.rdN := by unfold State.tick; split <;> rfl
@[simp] theorem State.tick_ph (s : State) : s.tick.ph = s.ph := by unfold State.tick; split <;> rfl
@[simp] theorem State.tick_cnt (s : State) : s.tick.cnt = s.cnt := by unfold State.tick; split <;> rfl
@[simp] theorem State.tick_cur (s : State) : s.tick.cur = s.cur := by unfold State.tick; split <;> rfl
@[simp] theorem State.tick_cq (s : State) : s.tick.cq = s.cq := by unfold State.tick; split <;> rfl

/-! ### raiseCmdError -/

@[simp] theorem raiseCmdError_cfg (e : CmdErr) (s : State) : (raiseCmdError e s).cfg = s.cfg := rfl
@[simp] theorem raiseCmdError_errSeen (e : CmdErr) (s : State) : (raiseCmdError e s).errSeen = true := rfl
@[simp] theorem raiseCmdError_lastErr (e : CmdErr) (s : State) : (raiseCmdError e s).lastErr = e := rfl
@[simp] theorem raiseCmdError_tr (e : CmdErr) (s : State) : (raiseCmdError e s).tr = s.tr := rfl
@[simp] theorem raiseCmdError_rdata (e : CmdErr) (s : State) : (raiseCmdError e s).rdata = s.rdata := rfl
@[simp] theorem raiseCmdError_cwg (e : CmdErr) (s : State) : (raiseCmdError e s).cwg = s.cwg := rfl
@[simp] theorem raiseCmdError_streq (e : CmdErr) (s : State) : (raiseCmdError e s).streq = s.streq := rfl
@[simp] theorem raiseCmdError_fmap (e : CmdErr) (s : State) : (raiseCmdError e s).fmap = s.fmap := rfl
@[simp] theorem raiseCmdError_aOut (e : CmdErr) (s : State) : (raiseCmdError e s).aOut = s.aOut := rfl
@[simp] theorem raiseCmdError_dOut (e : CmdErr) (s : State) : (raiseCmdError e s).dOut = s.dOut := rfl
@[simp] theorem raiseCmdError_dOe (e : CmdErr) (s : State) : (raiseCmdError e s).dOe = s.dOe := rfl
@[simp] theorem raiseCmdError_ceN (e : CmdErr) (s : State) : (raiseCmdError e s).ceN = s.ceN := rfl
@[simp] theorem raiseCmdError_wrN (e : CmdErr) (s : State) : (raiseCmdError e s).wrN = s.wrN := rfl
@[simp] theorem raiseCmdError_rdN (e : CmdErr) (s : State) : (raiseCmdError e s).rdN = s.rdN := rfl
@[simp] theorem raiseCmdError_ph (e : CmdErr) (s : State) : (raiseCmdError e s).ph = s.ph := rfl
@[simp] theorem raiseCmdError_cnt (e : CmdErr) (s : State) : (raiseCmdError e s).cnt = s.cnt := rfl
@[simp] theorem raiseCmdError_cur (e : CmdErr) (s : State) : (raiseCmdError e s).cur = s.cur := rfl
@[simp] theorem raiseCmdError_cq (e : CmdErr) (s : State) : (raiseCmdError e s).cq = s.cq := rfl
@[simp] theorem raiseCmdError_inputs (e : CmdErr) (s : State) : (raiseCmdError e s).inputs = s.inputs := rfl
@[simp] theorem raiseCmdError_draws (e : CmdErr) (s : State) : (raiseCmdError e s).draws = s.draws := rfl

/-! ### resetEdge -/

@[simp] theorem resetEdge_cfg (s : State) : (resetEdge s).cfg = s.cfg := rfl
@[simp] theorem resetEdge_errSeen (s : State) : (resetEdge s).errSeen = false := rfl
@[simp] theorem resetEdge_lastErr (s : State) : (resetEdge s).lastErr = .none := rfl
@[simp] theorem resetEdge_tr (s : State) : (resetEdge s).tr = false := rfl
@[simp] theorem resetEdge_rdata (s : State) : (resetEdge s).rdata = 0 := rfl
@[simp] theorem resetEdge_cwg (s : State) : (resetEdge s).cwg = { br := 0, fe := false, be := false, cl := false } := rfl
@[simp] theorem resetEdge_streq (s : State) : (resetEdge s).streq = List.replicate s.cfg.nmod false := rfl
@[simp] theorem resetEdge_fmap (s : State) : (resetEdge s).fmap = List.replicate s.cfg.tw false := rfl
@[simp] theorem resetEdge_aOut (s : State) : (resetEdge s).aOut = 0 := rfl
@[simp] theorem resetEdge_dOut (s : State) : (resetEdge s).dOut = 0 := rfl
@[simp] theorem resetEdge_dOe (s : State) : (resetEdge s).dOe = true := rfl
@[simp] theorem resetEdge_ceN (s : State) : (resetEdge s).ceN = List.replicate s.cfg.nmod true := rfl
@[simp] theorem resetEdge_wrN (s : State) : (resetEdge s).wrN = true := rfl
@[simp] theorem resetEdge_rdN (s : State) : (resetEdge s).rdN = true := rfl
@[simp] theorem resetEdge_ph (s : State) : (resetEdge s).ph = .idle := rfl
@[simp] theorem resetEdge_cnt (s : State) : (resetEdge s).cnt = 0 := rfl
@[simp] theorem resetEdge_cur (s : State) : (resetEdge s).cur = none := rfl
@[simp] theorem resetEdge_cq (s : State) : (resetEdge s).cq = [] := rfl
@[simp] theorem resetEdge_inputs (s : State) : (resetEdge s).inputs = s.inputs := rfl
@[simp] theorem resetEdge_draws (s : State) : (resetEdge s).draws = s.draws := rfl

/-! ### resetOf -/

@[simp] theorem State.resetOf_cfg (c : Config) : (State.resetOf c).cfg = c := rfl
@[simp] theorem State.resetOf_errSeen (c : Config) : (State.resetOf c).errSeen = false := rfl
@[simp] theorem State.resetOf_lastErr (c : Config) : (State.resetOf c).lastErr = .none := rfl
@[simp] theorem State.resetOf_tr (c : Config) : (State.resetOf c).tr = false := rfl
@[simp] theorem State.resetOf_rdata (c : Config) : (State.resetOf c).rdata = 0 := rfl
@[simp] theorem State.resetOf_cwg (c : Config) : (State.resetOf c).cwg = { br := 0, fe := false, be := false, cl := false } := rfl
@[simp] theorem State.resetOf_streq (c : Config) : (State.resetOf c).streq = List.replicate c.nmod false := rfl
@[simp] theorem State.resetOf_fmap (c : Config) : (State.resetOf c).fmap = List.replicate c.tw false := rfl
@[simp] theorem State.resetOf_aOut (c : Config) : (State.resetOf c).aOut = 0 := rfl
@[simp] theorem State.resetOf_dOut (c : Config) : (State.resetOf c).dOut = 0 := rfl
@[simp] theorem State.resetOf_dOe (c : Config) : (State.resetOf c).dOe = true := rfl
@[simp] theorem State.resetOf_ceN (c : Config) : (State.resetOf c).ceN = List.replicate c.nmod true := rfl
@[simp] theorem State.resetOf_wrN (c : Config) : (State.resetOf c).wrN = true := rfl
@[simp] theorem State.resetOf_rdN (c : Config) : (State.resetOf c).rdN = true := rfl
@[simp] theorem State.resetOf_ph (c : Config) : (State.resetOf c).ph = .idle := rfl
@[simp] theorem State.resetOf_cnt (c : Config) : (State.resetOf c).cnt = 0 := rfl
@[simp] theorem State.resetOf_cur (c : Config) : (State.resetOf c).cur = none := rfl
@[simp] theorem State.resetOf_cq (c : Config) : (State.resetOf c).cq = [] := rfl
@[simp] theorem State.resetOf_inputs (c : Config) : (State.resetOf c).inputs = [] := rfl
@[simp] theorem State.resetOf_draws (c : Config) : (State.resetOf c).draws = 0 := rfl

/-! ### driveBus -/

@[simp] theorem driveBus_cfg (d : Desc) (s : State) : (driveBus d s).cfg = s.cfg := by cases d <;> rfl
@[simp] theorem driveBus_errSeen (d : Desc) (s : State) : (driveBus d s).errSeen = s.errSeen := by cases d <;> rfl
@[simp] theorem driveBus_lastErr (d : Desc) (s : State) : (driveBus d s).lastErr = s.lastErr := by cases d <;> rfl
@[simp] theorem driveBus_tr (d : Desc) (s : State) : (driveBus d s).tr = s.tr := by cases d <;> rfl
@[simp] theorem driveBus_rdata (d : Desc) (s : State) : (driveBus d s).rdata = s.rdata := by cases d <;> rfl
@[simp] theorem driveBus_cwg (d : Desc) (s : State) : (driveBus d s).cwg = s.cwg := by cases d <;> rfl
@[simp] theorem driveBus_streq (d : Desc) (s : State) : (driveBus d s).streq = s.streq := by cases d <;> rfl
@[simp] theorem driveBus_fmap (d : Desc) (s : State) : (driveBus d s).fmap = s.fmap := by cases d <;> rfl
@[simp] theorem driveBus_dOe (d : Desc) (s : State) : (driveBus d s).dOe = s.dOe := by cases d <;> rfl
@[simp] theorem driveBus_ceN (d : Desc) (s : State) : (driveBus d s).ceN = s.ceN := by cases d <;> rfl
@[simp] theorem driveBus_wrN (d : Desc) (s : State) : (driveBus d s).wrN = s.wrN := by cases d <;> rfl
@[simp] theorem driveBus_rdN (d : Desc) (s : State) : (driveBus d s).rdN = s.rdN := by cases d <;> rfl
@[simp] theorem driveBus_ph (d : Desc) (s : State) : (driveBus d s).ph = s.ph := by cases d <;> rfl
@[simp] theorem driveBus_cnt (d : Desc) (s : State) : (driveBus d s).cnt = s.cnt := by cases d <;> rfl
@[simp] theorem driveBus_cur (d : Desc) (s : State) : (driveBus d s).cur = s.cur := by cases d <;> rfl
@[simp] theorem driveBus_cq (d : Desc) (s : State) : (driveBus d s).cq = s.cq := by cases d <;> rfl
@[simp] theorem driveBus_inputs (d : Desc) (s : State) : (driveBus d s).inputs = s.inputs := by cases d <;> rfl
@[simp] theorem driveBus_draws (d : Desc) (s : State) : (driveBus d s).draws = s.draws := by cases d <;> rfl
@[simp] theorem driveBus_aOut (d : Desc) (s : State) : (driveBus d s).aOut = d.addr := by cases d <;> rfl
@[simp] theorem driveBus_wd_dOut (a v : Byte) (mods : List Nat) (s : State) : (driveBus (.wd a v mods) s).dOut = v := rfl
@[simp] theorem driveBus_rd_dOut (a : Byte) (m : Nat) (k : ReadKind) (s : State) : (driveBus (.rd a m k) s).dOut = s.dOut := rfl

/-! ### startCycle -/

@[simp] theorem startCycle_cfg (d : Desc) (s : State) : (startCycle d s).cfg = s.cfg := by cases d <;> rfl
@[simp] theorem startCycle_errSeen (d : Desc) (s : State) : (startCycle d s).errSeen = s.errSeen := by cases d <;> rfl
@[simp] theorem startCycle_lastErr (d : Desc) (s : State) : (startCycle d s).lastErr = s.lastErr := by cases d <;> rfl
@[simp] theorem startCycle_tr (d : Desc) (s : State) : (startCycle d s).tr = s.tr := by cases d <;> rfl
@[simp] theorem startCycle_rdata (d : Desc) (s : State) : (startCycle d s).rdata = s.rdata := by cases d <;> rfl
@[simp] theorem startCycle_cwg (d : Desc) (s : State) : (startCycle d s).cwg = s.cwg := by cases d <;> rfl
@[simp] theorem startCycle_streq (d : Desc) (s : State) : (startCycle d s).streq = s.streq := by cases d <;> rfl
@[simp] theorem startCycle_fmap (d : Desc) (s : State) : (startCycle d s).fmap = s.fmap := by cases d <;> rfl
@[simp] theorem startCycle_dOe (d : Desc) (s : State) : (startCycle d s).dOe = s.dOe := by cases d <;> rfl
@[simp] theorem startCycle_ceN (d : Desc) (s : State) : (startCycle d s).ceN = s.ceN := by cases d <;> rfl
@[simp] theorem startCycle_wrN (d : Desc) (s : State) : (startCycle d s).wrN = s.wrN := by cases d <;> rfl
@[simp] theorem startCycle_rdN (d : Desc) (s : State) : (startCycle d s).rdN = s.rdN := by cases d <;> rfl
@[simp] theorem startCycle_ph (d : Desc) (s : State) : (startCycle d s).ph = d.first := rfl
@[simp] theorem startCycle_cnt (d : Desc) (s : State) : (startCycle d s).cnt = d.first.dwell s.cfg := rfl
@[simp] theorem startCycle_cur (d : Desc) (s : State) : (startCycle d s).cur = some d := rfl
@[simp] theorem startCycle_cq (d : Desc) (s : State) : (startCycle d s).cq = s.cq := by cases d <;> rfl
@[simp] theorem startCycle_inputs (d : Desc) (s : State) : (startCycle d s).inputs = s.inputs := by cases d <;> rfl
@[simp] theorem startCycle_draws (d : Desc) (s : State) : (startCycle d s).draws = s.draws := by cases d <;> rfl
@[simp] theorem startCycle_aOut (d : Desc) (s : State) : (startCycle d s).aOut = d.addr := by cases d <;> rfl
@[simp] theorem startCycle_wd_dOut (a v : Byte) (mods : List Nat) (s : State) : (startCycle (.wd a v mods) s).dOut = v := rfl
@[simp] theorem startCycle_rd_dOut (a : Byte) (m : Nat) (k : ReadKind) (s : State) : (startCycle (.rd a m k) s).dOut = s.dOut := rfl

/-! ### sample -/

@[simp] theorem sample_cfg (k : ReadKind) (b : Byte) (s : State) : (sample k b s).cfg = s.cfg := by cases k <;> rfl
@[simp] theorem sample_errSeen (k : ReadKind) (b : Byte) (s : State) : (sample k b s).errSeen = s.errSeen := by cases k <;> rfl
@[simp] theorem sample_lastErr (k : ReadKind) (b : Byte) (s : State) : (sample k b s).lastErr = s.lastErr := by cases k <;> rfl
@[simp] theorem sample_rdata (k : ReadKind) (b : Byte) (s : State) : (sample k b s).rdata = b := by cases k <;> rfl
@[simp] theorem sample_cwg (k : ReadKind) (b : Byte) (s : State) : (sample k b s).cwg = s.cwg := by cases k <;> rfl
@[simp] theorem sample_streq (k : ReadKind) (b : Byte) (s : State) : (sample k b s).streq = s.streq := by cases k <;> rfl
@[simp] theorem sample_fmap (k : ReadKind) (b : Byte) (s : State) : (sample k b s).fmap = s.fmap := by cases k <;> rfl
@[simp] theorem sample_aOut (k : ReadKind) (b : Byte) (s : State) : (sample k b s).aOut = s.aOut := by cases k <;> rfl
@[simp] theorem sample_dOut (k : ReadKind) (b : Byte) (s : State) : (sample k b s).dOut = s.dOut := by cases k <;> rfl
@[simp] theorem sample_dOe (k : ReadKind) (b : Byte) (s : State) : (sample k b s).dOe = s.dOe := by cases k <;> rfl
@[simp] theorem sample_ceN (k : ReadKind) (b : Byte) (s : State) : (sample k b s).ceN = s.ceN := by cases k <;> rfl
@[simp] theorem sample_wrN (k : ReadKind) (b : Byte) (s : State) : (sample k b s).wrN = s.wrN := by cases k <;> rfl
@[simp] theorem sample_rdN (k : ReadKind) (b : Byte) (s : State) : (sample k b s).rdN = s.rdN := by cases k <;> rfl
@[simp] theorem sample_ph (k : ReadKind) (b : Byte) (s : State) : (sample k b s).ph = s.ph := by cases k <;> rfl
@[simp] theorem sample_cnt (k : ReadKind) (b : Byte) (s : State) : (sample k b s).cnt = s.cnt := by cases k <;> rfl
@[simp] theorem sample_cur (k : ReadKind) (b : Byte) (s : State) : (sample k b s).cur = s.cur := by cases k <;> rfl
@[simp] theorem sample_cq (k : ReadKind) (b : Byte) (s : State) : (sample k b s).cq = s.cq := by cases k <;> rfl
@[simp] theorem sample_inputs (k : ReadKind) (b : Byte) (s : State) : (sample k b s).inputs = s.inputs := by cases k <;> rfl
@[simp] theorem sample_draws (k : ReadKind) (b : Byte) (s : State) : (sample k b s).draws = s.draws := by cases k <;> rfl
@[simp] theorem sample_raw_tr (b : Byte) (s : State) : (sample .raw b s).tr = s.tr := rfl
@[simp] theorem sample_test_tr (b : Byte) (s : State) : (sample .test b s).tr = b.getLsbD s.cfg.cwl.tr := rfl

/-! ### performStep and enterStep: what no bus step changes -/

@[simp] theorem performStep_cfg (b : Byte) (d : Desc) (p : Phase) (s : State) : (performStep b d p s).cfg = s.cfg := by
  cases d <;> cases p <;> simp [performStep]
@[simp] theorem performStep_errSeen (b : Byte) (d : Desc) (p : Phase) (s : State) : (performStep b d p s).errSeen = s.errSeen := by
  cases d <;> cases p <;> simp [performStep]
@[simp] theorem performStep_lastErr (b : Byte) (d : Desc) (p : Phase) (s : State) : (performStep b d p s).lastErr = s.lastErr := by
  cases d <;> cases p <;> simp [performStep]
@[simp] theorem performStep_cwg (b : Byte) (d : Desc) (p : Phase) (s : State) : (performStep b d p s).cwg = s.cwg := by
  cases d <;> cases p <;> simp [performStep]
@[simp] theorem performStep_streq (b : Byte) (d : Desc) (p : Phase) (s : State) : (performStep b d p s).streq = s.streq := by
  cases d <;> cases p <;> simp [performStep]
@[simp] theorem performStep_fmap (b : Byte) (d : Desc) (p : Phase) (s : State) : (performStep b d p s).fmap = s.fmap := by
  cases d <;> cases p <;> simp [performStep]
@[simp] theorem performStep_inputs (b : Byte) (d : Desc) (p : Phase) (s : State) : (performStep b d p s).inputs = s.inputs := by
  cases d <;> cases p <;> simp [performStep]
@[simp] theorem performStep_draws (b : Byte) (d : Desc) (p : Phase) (s : State) : (performStep b d p s).draws = s.draws := by
  cases d <;> cases p <;> simp [performStep]
@[simp] theorem performStep_cq (b : Byte) (d : Desc) (p : Phase) (s : State) : (performStep b d p s).cq = s.cq := by
  cases d <;> cases p <;> simp [performStep]
@[simp] theorem performStep_ph (b : Byte) (d : Desc) (p : Phase) (s : State) : (performStep b d p s).ph = s.ph := by
  cases d <;> cases p <;> simp [performStep]
@[simp] theorem performStep_cnt (b : Byte) (d : Desc) (p : Phase) (s : State) : (performStep b d p s).cnt = s.cnt := by
  cases d <;> cases p <;> simp [performStep]
@[simp] theorem performStep_cur (b : Byte) (d : Desc) (p : Phase) (s : State) : (performStep b d p s).cur = s.cur := by
  cases d <;> cases p <;> simp [performStep]
@[simp] theorem enterStep_cfg (b : Byte) (d : Desc) (p : Phase) (s : State) : (enterStep b d p s).cfg = s.cfg := by simp [enterStep]
@[simp] theorem enterStep_errSeen (b : Byte) (d : Desc) (p : Phase) (s : State) : (enterStep b d p s).errSeen = s.errSeen := by simp [enterStep]
@[simp] theorem enterStep_lastErr (b : Byte) (d : Desc) (p : Phase) (s : State) : (enterStep b d p s).lastErr = s.lastErr := by simp [enterStep]
@[simp] theorem enterStep_cwg (b : Byte) (d : Desc) (p : Phase) (s : State) : (enterStep b d p s).cwg = s.cwg := by simp [enterStep]
@[simp] theorem enterStep_streq (b : Byte) (d : Desc) (p : Phase) (s : State) : (enterStep b d p s).streq = s.streq := by simp [enterStep]
@[simp] theorem enterStep_fmap (b : Byte) (d : Desc) (p : Phase) (s : State) : (enterStep b d p s).fmap = s.fmap := by simp [enterStep]
@[simp] theorem enterStep_inputs (b : Byte) (d : Desc) (p : Phase) (s : State) : (enterStep b d p s).inputs = s.inputs := by simp [enterStep]
@[simp] theorem enterStep_draws (b : Byte) (d : Desc) (p : Phase) (s : State) : (enterStep b d p s).draws = s.draws := by simp [enterStep]
@[simp] theorem enterStep_cq (b : Byte) (d : Desc) (p : Phase) (s : State) : (enterStep b d p s).cq = s.cq := by simp [enterStep]
@[simp] theorem enterStep_ph (b : Byte) (d : Desc) (p : Phase) (s : State) : (enterStep b d p s).ph = p := rfl
@[simp] theorem enterStep_cnt (b : Byte) (d : Desc) (p : Phase) (s : State) : (enterStep b d p s).cnt = p.dwell s.cfg := rfl
@[simp] theorem enterStep_cur (b : Byte) (d : Desc) (p : Phase) (s : State) : (enterStep b d p s).cur = some d := rfl

/-! ### finish -/

@[simp] theorem finish_cfg (s : State) : (finish s).cfg = s.cfg := rfl
@[simp] theorem finish_errSeen (s : State) : (finish s).errSeen = s.errSeen := rfl
@[simp] theorem finish_lastErr (s : State) : (finish s).lastErr = s.lastErr := rfl
@[simp] theorem finish_tr (s : State) : (finish s).tr = s.tr := rfl
@[simp] theorem finish_rdata (s : State) : (finish s).rdata = s.rdata := rfl
@[simp] theorem finish_cwg (s : State) : (finish s).cwg = s.cwg := rfl
@[simp] theorem finish_streq (s : State) : (finish s).streq = s.streq := rfl
@[simp] theorem finish_fmap (s : State) : (finish s).fmap = s.fmap := rfl
@[simp] theorem finish_aOut (s : State) : (finish s).aOut = s.aOut := rfl
@[simp] theorem finish_dOut (s : State) : (finish s).dOut = s.dOut := rfl
@[simp] theorem finish_dOe (s : State) : (finish s).dOe = s.dOe := rfl
@[simp] theorem finish_ceN (s : State) : (finish s).ceN = s.ceN := rfl
@[simp] theorem finish_wrN (s : State) : (finish s).wrN = s.wrN := rfl
@[simp] theorem finish_rdN (s : State) : (finish s).rdN = s.rdN := rfl
@[simp] theorem finish_ph (s : State) : (finish s).ph = .idle := rfl
@[simp] theorem finish_cnt (s : State) : (finish s).cnt = 0 := rfl
@[simp] theorem finish_cur (s : State) : (finish s).cur = none := rfl
@[simp] theorem finish_cq (s : State) : (finish s).cq = s.cq := rfl
@[simp] theorem finish_inputs (s : State) : (finish s).inputs = s.inputs := rfl
@[simp] theorem finish_draws (s : State) : (finish s).draws = s.draws := rfl

/-! ### the states a command leaves -/

@[simp] theorem State.startedWrite_cfg (s : State) (a v : Byte) (mods : List Nat) (q : List Desc) : (s.startedWrite a v mods q).cfg = s.cfg := rfl
@[simp] theorem State.startedWrite_errSeen (s : State) (a v : Byte) (mods : List Nat) (q : List Desc) : (s.startedWrite a v mods q).errSeen = s.errSeen := rfl
@[simp] theorem State.startedWrite_lastErr (s : State) (a v : Byte) (mods : List Nat) (q : List Desc) : (s.startedWrite a v mods q).lastErr = .none := rfl
@[simp] theorem State.startedWrite_tr (s : State) (a v : Byte) (mods : List Nat) (q : List Desc) : (s.startedWrite a v mods q).tr = s.tr := rfl
@[simp] theorem State.startedWrite_rdata (s : State) (a v : Byte) (mods : List Nat) (q : List Desc) : (s.startedWrite a v mods q).rdata = s.rdata := rfl
@[simp] theorem State.startedWrite_cwg (s : State) (a v : Byte) (mods : List Nat) (q : List Desc) : (s.startedWrite a v mods q).cwg = s.cwg := rfl
@[simp] theorem State.startedWrite_streq (s : State) (a v : Byte) (mods : List Nat) (q : List Desc) : (s.startedWrite a v mods q).streq = s.streq := rfl
@[simp] theorem State.startedWrite_fmap (s : State) (a v : Byte) (mods : List Nat) (q : List Desc) : (s.startedWrite a v mods q).fmap = s.fmap := rfl
@[simp] theorem State.startedWrite_aOut (s : State) (a v : Byte) (mods : List Nat) (q : List Desc) : (s.startedWrite a v mods q).aOut = a := rfl
@[simp] theorem State.startedWrite_dOut (s : State) (a v : Byte) (mods : List Nat) (q : List Desc) : (s.startedWrite a v mods q).dOut = v := rfl
@[simp] theorem State.startedWrite_dOe (s : State) (a v : Byte) (mods : List Nat) (q : List Desc) : (s.startedWrite a v mods q).dOe = s.dOe := rfl
@[simp] theorem State.startedWrite_ceN (s : State) (a v : Byte) (mods : List Nat) (q : List Desc) : (s.startedWrite a v mods q).ceN = s.ceN := rfl
@[simp] theorem State.startedWrite_wrN (s : State) (a v : Byte) (mods : List Nat) (q : List Desc) : (s.startedWrite a v mods q).wrN = s.wrN := rfl
@[simp] theorem State.startedWrite_rdN (s : State) (a v : Byte) (mods : List Nat) (q : List Desc) : (s.startedWrite a v mods q).rdN = s.rdN := rfl
@[simp] theorem State.startedWrite_ph (s : State) (a v : Byte) (mods : List Nat) (q : List Desc) : (s.startedWrite a v mods q).ph = .w1 := rfl
@[simp] theorem State.startedWrite_cnt (s : State) (a v : Byte) (mods : List Nat) (q : List Desc) : (s.startedWrite a v mods q).cnt = s.cfg.nAS := rfl
@[simp] theorem State.startedWrite_cur (s : State) (a v : Byte) (mods : List Nat) (q : List Desc) : (s.startedWrite a v mods q).cur = some (.wd a v mods) := rfl
@[simp] theorem State.startedWrite_cq (s : State) (a v : Byte) (mods : List Nat) (q : List Desc) : (s.startedWrite a v mods q).cq = q := rfl
@[simp] theorem State.startedWrite_inputs (s : State) (a v : Byte) (mods : List Nat) (q : List Desc) : (s.startedWrite a v mods q).inputs = s.inputs := rfl
@[simp] theorem State.startedWrite_draws (s : State) (a v : Byte) (mods : List Nat) (q : List Desc) : (s.startedWrite a v mods q).draws = s.draws := rfl
@[simp] theorem State.startedRead_cfg (s : State) (a : Byte) (m : Nat) (k : ReadKind) : (s.startedRead a m k).cfg = s.cfg := rfl
@[simp] theorem State.startedRead_errSeen (s : State) (a : Byte) (m : Nat) (k : ReadKind) : (s.startedRead a m k).errSeen = s.errSeen := rfl
@[simp] theorem State.startedRead_lastErr (s : State) (a : Byte) (m : Nat) (k : ReadKind) : (s.startedRead a m k).lastErr = .none := rfl
@[simp] theorem State.startedRead_tr (s : State) (a : Byte) (m : Nat) (k : ReadKind) : (s.startedRead a m k).tr = s.tr := rfl
@[simp] theorem State.startedRead_rdata (s : State) (a : Byte) (m : Nat) (k : ReadKind) : (s.startedRead a m k).rdata = s.rdata := rfl
@[simp] theorem State.startedRead_cwg (s : State) (a : Byte) (m : Nat) (k : ReadKind) : (s.startedRead a m k).cwg = s.cwg := rfl
@[simp] theorem State.startedRead_streq (s : State) (a : Byte) (m : Nat) (k : ReadKind) : (s.startedRead a m k).streq = s.streq := rfl
@[simp] theorem State.startedRead_fmap (s : State) (a : Byte) (m : Nat) (k : ReadKind) : (s.startedRead a m k).fmap = s.fmap := rfl
@[simp] theorem State.startedRead_aOut (s : State) (a : Byte) (m : Nat) (k : ReadKind) : (s.startedRead a m k).aOut = a := rfl
@[simp] theorem State.startedRead_dOut (s : State) (a : Byte) (m : Nat) (k : ReadKind) : (s.startedRead a m k).dOut = s.dOut := rfl
@[simp] theorem State.startedRead_dOe (s : State) (a : Byte) (m : Nat) (k : ReadKind) : (s.startedRead a m k).dOe = s.dOe := rfl
@[simp] theorem State.startedRead_ceN (s : State) (a : Byte) (m : Nat) (k : ReadKind) : (s.startedRead a m k).ceN = s.ceN := rfl
@[simp] theorem State.startedRead_wrN (s : State) (a : Byte) (m : Nat) (k : ReadKind) : (s.startedRead a m k).wrN = s.wrN := rfl
@[simp] theorem State.startedRead_rdN (s : State) (a : Byte) (m : Nat) (k : ReadKind) : (s.startedRead a m k).rdN = s.rdN := rfl
@[simp] theorem State.startedRead_ph (s : State) (a : Byte) (m : Nat) (k : ReadKind) : (s.startedRead a m k).ph = .r1 := rfl
@[simp] theorem State.startedRead_cnt (s : State) (a : Byte) (m : Nat) (k : ReadKind) : (s.startedRead a m k).cnt = s.cfg.nAS := rfl
@[simp] theorem State.startedRead_cur (s : State) (a : Byte) (m : Nat) (k : ReadKind) : (s.startedRead a m k).cur = some (.rd a m k) := rfl
@[simp] theorem State.startedRead_cq (s : State) (a : Byte) (m : Nat) (k : ReadKind) : (s.startedRead a m k).cq = [] := rfl
@[simp] theorem State.startedRead_inputs (s : State) (a : Byte) (m : Nat) (k : ReadKind) : (s.startedRead a m k).inputs = s.inputs := rfl
@[simp] theorem State.startedRead_draws (s : State) (a : Byte) (m : Nat) (k : ReadKind) : (s.startedRead a m k).draws = s.draws := rfl
@[simp] theorem State.rejected_cfg (s : State) (e : CmdErr) : (s.rejected e).cfg = s.cfg := rfl
@[simp] theorem State.rejected_errSeen (s : State) (e : CmdErr) : (s.rejected e).errSeen = true := rfl
@[simp] theorem State.rejected_lastErr (s : State) (e : CmdErr) : (s.rejected e).lastErr = e := rfl
@[simp] theorem State.rejected_tr (s : State) (e : CmdErr) : (s.rejected e).tr = s.tr := rfl
@[simp] theorem State.rejected_rdata (s : State) (e : CmdErr) : (s.rejected e).rdata = s.rdata := rfl
@[simp] theorem State.rejected_cwg (s : State) (e : CmdErr) : (s.rejected e).cwg = s.cwg := rfl
@[simp] theorem State.rejected_streq (s : State) (e : CmdErr) : (s.rejected e).streq = s.streq := rfl
@[simp] theorem State.rejected_fmap (s : State) (e : CmdErr) : (s.rejected e).fmap = s.fmap := rfl
@[simp] theorem State.rejected_aOut (s : State) (e : CmdErr) : (s.rejected e).aOut = s.aOut := rfl
@[simp] theorem State.rejected_dOut (s : State) (e : CmdErr) : (s.rejected e).dOut = s.dOut := rfl
@[simp] theorem State.rejected_dOe (s : State) (e : CmdErr) : (s.rejected e).dOe = s.dOe := rfl
@[simp] theorem State.rejected_ceN (s : State) (e : CmdErr) : (s.rejected e).ceN = s.ceN := rfl
@[simp] theorem State.rejected_wrN (s : State) (e : CmdErr) : (s.rejected e).wrN = s.wrN := rfl
@[simp] theorem State.rejected_rdN (s : State) (e : CmdErr) : (s.rejected e).rdN = s.rdN := rfl
@[simp] theorem State.rejected_ph (s : State) (e : CmdErr) : (s.rejected e).ph = s.ph := rfl
@[simp] theorem State.rejected_cnt (s : State) (e : CmdErr) : (s.rejected e).cnt = s.cnt := rfl
@[simp] theorem State.rejected_cur (s : State) (e : CmdErr) : (s.rejected e).cur = s.cur := rfl
@[simp] theorem State.rejected_cq (s : State) (e : CmdErr) : (s.rejected e).cq = s.cq := rfl
@[simp] theorem State.rejected_inputs (s : State) (e : CmdErr) : (s.rejected e).inputs = s.inputs := rfl
@[simp] theorem State.rejected_draws (s : State) (e : CmdErr) : (s.rejected e).draws = s.draws := rfl

end Sys2Proof.Machine
end

