-- ==== Sys2Proof/Laws/Ops.lean ====
section
/-! SUPPORT. For each shared operation, once, everything it can do: what an outcome of `accept`, `advance` and `step` is. -/

namespace Sys2Proof.Machine

/-! ### The inputs of an edge -/

@[simp] theorem State.pins_cons (s : State) (i : EdgeInput) (rest : List EdgeInput) :
    ({ s with inputs := i :: rest } : State).pins = i := rfl

theorem State.pins_of_cons {s : State} {i : EdgeInput} {rest : List EdgeInput} (h : s.inputs = i :: rest) :
    s.pins = i := by
  unfold State.pins; rw [h]

/-- An edge uses up the first listed input. -/
@[simp] theorem State.tick_inputs (s : State) : s.tick.inputs = s.inputs.tail := by
  unfold State.tick; split <;> simp_all

/-! ### Module sets -/

@[simp] theorem selectModules_length (mods : List Nat) (ce : List Bool) :
    (selectModules mods ce).length = ce.length := by
  unfold selectModules
  induction mods generalizing ce with
  | nil => rfl
  | cons m ms ih => simp [ih]

/-- W2 and R3 pull low the lines of the set's modules and leave the others. -/
theorem selectModules_getElem? (mods : List Nat) (ce : List Bool) (j : Nat) :
    (selectModules mods ce)[j]? = if j ∈ mods ∧ j < ce.length then some false else ce[j]? := by
  unfold selectModules
  induction mods generalizing ce with
  | nil => simp
  | cons m ms ih =>
    rw [List.foldl_cons, ih]
    by_cases hm : j ∈ ms <;> by_cases hj : j < ce.length <;> by_cases he : m = j <;>
      simp_all <;> intro h <;> omega

@[simp] theorem releaseModules_length (c : Config) : (releaseModules c).length = c.nmod := by
  simp [releaseModules]

/-! ### Acceptance -/

/-- Everything `accept` can do. -/
theorem accept_cases {checks : Config → List (Bool × CmdErr)} {update : State → State} {emits : State → List Desc}
    {s s' : State} (h : accept checks update emits s = .next s') :
    s.cfg.ok = true ∧
      ((s.ph ≠ .idle ∧ s' = s) ∨
       (s.ph = .idle ∧ ∃ e, firstFailing (checks s.cfg) = some e ∧ s' = raiseCmdError e s) ∨
       (s.ph = .idle ∧ firstFailing (checks s.cfg) = none ∧
         s' = startCommand (emits (update { s with lastErr := .none })) (update { s with lastErr := .none }))) := by
  unfold accept at h
  split at h
  · cases h
  · rename_i hok
    refine ⟨by simpa using hok, ?_⟩
    split at h
    · rename_i hp
      exact .inl ⟨hp, by cases h; rfl⟩
    · rename_i hp
      have hp : s.ph = .idle := by simpa using hp
      split at h
      · rename_i e he
        exact .inr (.inl ⟨hp, e, he, by cases h; rfl⟩)
      · rename_i he
        exact .inr (.inr ⟨hp, he, by cases h; rfl⟩)

/-- A command whose checks pass runs. -/
theorem accept_runs {checks : Config → List (Bool × CmdErr)} (update : State → State) (emits : State → List Desc)
    {s : State} (h : Ready s) (hc : firstFailing (checks s.cfg) = none) :
    accept checks update emits s =
      .next (startCommand (emits (update { s with lastErr := .none })) (update { s with lastErr := .none })) := by
  simp [accept, h.1, h.2, hc]

/-- A command with a failing check is rejected. -/
theorem accept_rejects {checks : Config → List (Bool × CmdErr)} (update : State → State) (emits : State → List Desc)
    {s : State} {e : CmdErr} (h : Ready s) (hc : firstFailing (checks s.cfg) = some e) :
    accept checks update emits s = .next (raiseCmdError e s) := by
  simp [accept, h.1, h.2, hc]

@[simp] theorem startCommand_nil (s : State) : startCommand [] s = s := rfl

@[simp] theorem startCommand_cons (d : Desc) (q : List Desc) (s : State) :
    startCommand (d :: q) s = startCycle d { s with cq := q } := rfl

/-! ### The step engine -/

/-- Everything an edge of a busy sequencer can do. -/
theorem advance_cases {b : Byte} {s s' : State} (h : advance b s = .next s') :
    ∃ d, s.cur = some d ∧ d.hasStep s.ph = true ∧
      ((1 < s.cnt ∧ s' = { s with cnt := s.cnt - 1 }) ∨
       (s.cnt ≤ 1 ∧ ∃ p, s.ph.next? = some p ∧ s' = enterStep b d p s) ∨
       (s.cnt ≤ 1 ∧ s.ph.next? = none ∧ ∃ d' q, s.cq = d' :: q ∧ s' = startCycle d' { s with cq := q }) ∨
       (s.cnt ≤ 1 ∧ s.ph.next? = none ∧ s.cq = [] ∧ s' = finish s)) := by
  unfold advance at h
  split at h
  · cases h
  · rename_i d hd
    split at h
    · cases h
    · rename_i hs
      refine ⟨d, hd, by simpa using hs, ?_⟩
      split at h
      · rename_i hc
        exact .inl ⟨hc, by cases h; rfl⟩
      · rename_i hc
        have hc : s.cnt ≤ 1 := by omega
        split at h
        · rename_i p hp
          exact .inr (.inl ⟨hc, p, hp, by cases h; rfl⟩)
        · rename_i hp
          split at h
          · rename_i d' q hq
            exact .inr (.inr (.inl ⟨hc, hp, d', q, hq, by cases h; rfl⟩))
          · rename_i hq
            exact .inr (.inr (.inr ⟨hc, hp, hq, by cases h; rfl⟩))

/-- A sequencer in a step of its current cycle always has a next state. -/
theorem advance_next {b : Byte} {s : State} {d : Desc} (hd : s.cur = some d) (hs : d.hasStep s.ph = true) :
    ∃ s', advance b s = .next s' := by
  unfold advance
  simp only [hd, hs, Bool.true_eq_false, if_false]
  repeat' split
  all_goals exact ⟨_, rfl⟩

/-- The step after a step of a cycle is a step of the same cycle. -/
theorem hasStep_next {d : Desc} {p q : Phase} (h : d.hasStep p = true) (hn : p.next? = some q) :
    d.hasStep q = true := by
  cases d <;> cases p <;> simp_all [Desc.hasStep, Phase.isWrite, Phase.isRead, Phase.next?] <;> subst hn <;> rfl

@[simp] theorem hasStep_first (d : Desc) : d.hasStep d.first = true := by cases d <;> rfl

theorem hasStep_ne_idle {d : Desc} {p : Phase} (h : d.hasStep p = true) : p ≠ .idle := by
  rintro rfl; cases d <;> cases h

/-- Under a legal configuration every step of a cycle has a dwell of at least one edge. -/
theorem dwell_pos {c : Config} (h : c.ok = true) {p : Phase} (hp : p ≠ .idle) : 1 ≤ p.dwell c := by
  obtain ⟨h1, h2, h3, h4, h5, h6, h7⟩ := Config.ok_dwells h
  cases p <;> simp_all [Phase.dwell]

/-! ### The edge -/

/-- Everything an edge can do. -/
theorem step_cases {s s' : State} (h : step s = .next s') :
    s.cfg.ok = true ∧
      ((s.pins.rst = true ∧ s' = resetEdge s.tick) ∨
       (s.pins.rst = false ∧ s.ph = .idle ∧ s.pins.cmdValid = false ∧ s' = s.tick) ∨
       (s.pins.rst = false ∧ s.ph = .idle ∧ s.pins.cmdValid = true ∧ ∃ r, decode s.pins.cmd = .error r ∧
         s' = raiseCmdError .illegal s.tick) ∨
       (s.pins.rst = false ∧ s.ph = .idle ∧ s.pins.cmdValid = true ∧ ∃ i, decode s.pins.cmd = .ok i ∧
         exec i s.tick = .next s') ∨
       (s.pins.rst = false ∧ s.ph ≠ .idle ∧ advance s.pins.dIn s.tick = .next s')) := by
  unfold step at h
  split at h
  · cases h
  · rename_i hok
    refine ⟨by simpa using hok, ?_⟩
    split at h
    · rename_i hr
      exact .inl ⟨hr, by cases h; rfl⟩
    · rename_i hr
      have hr : s.pins.rst = false := by simpa using hr
      split at h
      · rename_i hi
        have hi : s.ph = .idle := by simpa [State.cmdReady, State.busy] using hi
        split at h
        · rename_i hv
          unfold acceptWord at h
          split at h
          · rename_i i hd
            exact .inr (.inr (.inr (.inl ⟨hr, hi, hv, i, hd, h⟩)))
          · rename_i r hd
            exact .inr (.inr (.inl ⟨hr, hi, hv, r, hd, by cases h; rfl⟩))
        · rename_i hv
          exact .inr (.inl ⟨hr, hi, by simpa using hv, by cases h; rfl⟩)
      · rename_i hi
        have hi : s.ph ≠ .idle := by simpa [State.cmdReady, State.busy] using hi
        exact .inr (.inr (.inr (.inr ⟨hr, hi, h⟩)))

/-- An edge of a busy block without a reset is an edge of the step engine. -/
theorem step_busy {s : State} (hok : s.cfg.ok = true) (hr : s.pins.rst = false) (hp : s.ph ≠ .idle) :
    step s = advance s.pins.dIn s.tick := by
  simp [step, hok, hr, State.cmdReady, State.busy, hp]

end Sys2Proof.Machine
end

