-- ==== Sys2Proof/Laws/PerInstr.lean ====
section
/-! SUPPORT. The per-instruction family `EncodesItsOp`: the top four bits of a command's word are the OP value that 30 R92
gives its mnemonic. One lemma per command. -/

namespace Sys2Proof.Laws.EncodesItsOp

/-- The OP value of a command (30 R92). -/
def op : Instr → BitVec 4
  | .wrreg _ _ _ => 0x1
  | .rdreg _ _ => 0x2
  | .wrlog _ _ _ _ => 0x3
  | .wrpos _ _ _ => 0x4
  | .setbri _ => 0x5
  | .setflen _ => 0x6
  | .setblen _ => 0x7
  | .setclr _ => 0x8
  | .selftest _ _ => 0x9
  | .rdtest _ => 0xA
  | .ldfmap _ _ => 0xB
  | .flashmap => 0xC

/-- The word of the command has its OP in bits 31:28. -/
def Statement (i : Instr) : Prop := opField (encode i) = op i

/-- The OP of a word laid out with a 16-bit field below SP. -/
theorem opField_half (a b : BitVec 4) (p : BitVec 16) (d : Byte) : opField (a ++ b ++ p ++ d) = a := by
  apply BitVec.eq_of_getLsbD_eq
  intro i hi
  simp only [opField, BitVec.getLsbD_extractLsb', BitVec.getLsbD_append, hi, decide_true, Bool.true_and]
  repeat' split
  all_goals first | omega | (congr 1; omega)

/-- The OP of a word that is its OP and a low field of 28 bits or less, zeros between. -/
theorem opField_low (n k : Nat) (h : n + k = 28) (a : BitVec 4) (z : BitVec n) (v : BitVec k) :
    opField (BitVec.cast (by omega) (a ++ z ++ v)) = a := by
  apply BitVec.eq_of_getLsbD_eq
  intro i hi
  simp only [opField, BitVec.getLsbD_extractLsb', BitVec.getLsbD_cast, BitVec.getLsbD_append, hi, decide_true,
    Bool.true_and]
  repeat' split
  all_goals first | omega | (congr 1; omega)

/-- The OP of a word with a target field and then two low fields of 16 bits together. -/
theorem opField_parts (n k : Nat) (h : n + k = 16) (a b : BitVec 4) (t : Byte) (z : BitVec n) (v : BitVec k) :
    opField (BitVec.cast (by omega) (a ++ b ++ t ++ z ++ v)) = a := by
  apply BitVec.eq_of_getLsbD_eq
  intro i hi
  simp only [opField, BitVec.getLsbD_extractLsb', BitVec.getLsbD_cast, BitVec.getLsbD_append, hi, decide_true,
    Bool.true_and]
  repeat' split
  all_goals first | omega | (congr 1; omega)

/-- The OP of a word with a target field and then one low field of 16 bits. -/
theorem opField_target (a b : BitVec 4) (t : Byte) (z : BitVec 16) : opField (a ++ b ++ t ++ z) = a := by
  apply BitVec.eq_of_getLsbD_eq
  intro i hi
  simp only [opField, BitVec.getLsbD_extractLsb', BitVec.getLsbD_append, hi, decide_true, Bool.true_and]
  repeat' split
  all_goals first | omega | (congr 1; omega)

theorem wrreg (tgt : Target) (ad dt : Byte) : Statement (.wrreg tgt ad dt) := (fields_of_append _ _ _ _ _).1

theorem rdreg (tgt : Target) (ad : Byte) : Statement (.rdreg tgt ad) := (fields_of_append _ _ _ _ _).1

theorem wrlog (sp : Space) (tgt : Target) (ix dt : Byte) : Statement (.wrlog sp tgt ix dt) :=
  (fields_of_append _ _ _ _ _).1

theorem wrpos (sp : Space) (pos : BitVec 16) (dt : Byte) : Statement (.wrpos sp pos dt) := opField_half _ _ _ _

theorem setbri (br : BitVec 3) : Statement (.setbri br) := opField_low 25 3 rfl _ _ _

theorem setflen (v : Bool) : Statement (.setflen v) := opField_low 27 1 rfl _ _ _

theorem setblen (v : Bool) : Statement (.setblen v) := opField_low 27 1 rfl _ _ _

theorem setclr (v : Bool) : Statement (.setclr v) := opField_low 27 1 rfl _ _ _

theorem selftest (tgt : Target) (v : Bool) : Statement (.selftest tgt v) := opField_parts 15 1 rfl _ _ _ _ _

theorem rdtest (tgt : Target) : Statement (.rdtest tgt) := opField_target _ _ _ _

theorem ldfmap (k : BitVec 16) (dt : Byte) : Statement (.ldfmap k dt) := opField_half _ _ _ _

theorem flashmap : Statement .flashmap := by
  unfold Statement
  decide

end Sys2Proof.Laws.EncodesItsOp
end

