-- ==== Sys2Proof/Tests/Slice0.lean ====
section
/-! SUPPORT. Tests. The words of the decode tests are written out from 30 R91 and R93; the expected results of the step
tests are the derived vectors of spec/95_test_vectors.md, named in each docstring; the last section shows, for every
obligation with hypotheses, states and operands that meet them. -/

namespace Sys2Proof.Tests

open Sys2Proof.Machine

/-! ### WellFormed -/

theorem test_wf_refuses_wrpos_udcaddr : (Instr.wrpos .udcAddr 0 0).wf = false := by decide
theorem test_wf_refuses_wrpos_udcram : (Instr.wrpos .udcRam 0 0).wf = false := by decide
theorem test_wf_refuses_wrpos_ctrl : (Instr.wrpos .ctrl 0 0).wf = false := by decide
theorem test_wf_accepts_wrpos : (Instr.wrpos .char 0 0).wf = true ∧ (Instr.wrpos .flash 0 0).wf = true := by decide

/-! ### Decode: one word a command, bit by bit from 30 R91 and R93 -/

/-- OP = 1, SP = 0, TS = 0x01, AD = 0x3A, DT = 0x48 (30 R101). -/
theorem test_decode_wrreg : decode 0b0001_0000_00000001_00111010_01001000 = .ok (.wrreg (.one 1) 0x3A 0x48) := by rfl
/-- TS = 0xFF is all modules, TS = 0xFE is module 254 (30 R95). -/
theorem test_decode_wrreg_targets : decode 0x10FF3000 = .ok (.wrreg .all 0x30 0x00) ∧
    decode 0x10FE3000 = .ok (.wrreg (.one 254) 0x30 0x00) := by decide
/-- OP = 2, TS = 0x00, AD = 0x30. -/
theorem test_decode_rdreg : decode 0b0010_0000_00000000_00110000_00000000 = .ok (.rdreg (.one 0) 0x30) := by rfl
/-- OP = 3, SP = 3, TS = 0x01, IX = 2, DT = 0x48. -/
theorem test_decode_wrlog : decode 0b0011_0011_00000001_00000010_01001000 = .ok (.wrlog .char (.one 1) 2 0x48) := by rfl
/-- SP = 0 to 4 (30 R94). -/
theorem test_decode_spaces : decode 0x30000102 = .ok (.wrlog .udcAddr (.one 0) 1 2) ∧
    decode 0x31000102 = .ok (.wrlog .udcRam (.one 0) 1 2) ∧ decode 0x32000102 = .ok (.wrlog .ctrl (.one 0) 1 2) ∧
    decode 0x34000102 = .ok (.wrlog .flash (.one 0) 1 2) := by decide
/-- OP = 4, SP = 3, POS = 0x000A, DT = 0x48. -/
theorem test_decode_wrpos : decode 0b0100_0011_0000000000001010_01001000 = .ok (.wrpos .char 10 0x48) := by rfl
/-- M5: POS is 16 bits. -/
theorem test_decode_wrpos_flash : decode 0x44FFFF01 = .ok (.wrpos .flash 0xFFFF 0x01) := by rfl
theorem test_decode_setbri : decode 0b0101_0000_00000000_00000000_00000101 = .ok (.setbri 5) := by rfl
theorem test_decode_setflen : decode 0b0110_0000_00000000_00000000_00000001 = .ok (.setflen true) := by rfl
theorem test_decode_setblen : decode 0b0111_0000_00000000_00000000_00000001 = .ok (.setblen true) := by rfl
theorem test_decode_setclr : decode 0b1000_0000_00000000_00000000_00000000 = .ok (.setclr false) := by rfl
theorem test_decode_selftest : decode 0b1001_0000_00000001_00000000_00000001 = .ok (.selftest (.one 1) true) := by rfl
theorem test_decode_rdtest : decode 0b1010_0000_00000010_00000000_00000000 = .ok (.rdtest (.one 2)) := by rfl
/-- OP = 0xB, K = 0x0001, DT = 0x80. -/
theorem test_decode_ldfmap : decode 0b1011_0000_0000000000000001_10000000 = .ok (.ldfmap 1 0x80) := by rfl
theorem test_decode_flashmap : decode 0b1100_0000_00000000_00000000_00000000 = .ok .flashmap := by rfl

/-- The ILLEGAL words of 95 section 2.1. -/
theorem test_decode_illegal :
    [0x00000000, 0xD0000000, 0xE0000000, 0xF0000000, 0x1F003000, 0x21003000, 0x20003001, 0x35000000, 0x42000000,
      0x50000008, 0x60000002, 0x90000100, 0xA0000001, 0xB1000000, 0xC0000001].all
      (fun w : Word => (decode w).toOption.isNone) = true := by decide

/-- The reasons by name (30 R98, R99). -/
theorem test_decode_reasons : decode 0xD0000000 = .error .reservedOp ∧ decode 0x20003001 = .error .nonzeroField ∧
    decode 0x35000000 = .error .badSpace := by decide

theorem test_encode_wrlog : encode (.wrlog .char (.one 1) 2 0x48) = 0x33010248 := by decide
theorem test_encode_ldfmap : encode (.ldfmap 1 0x80) = 0xB0000180 := by decide

theorem test_decodeTableWord : decodeTableWord 32 0x33010248 = some (.wrlog .char (.one 1) 2 0x48) := by decide

/-! ### States -/

/-- A host that presents `w` at the next edge. -/
def present (w : Word) : EdgeInput := { rst := false, cmdValid := true, cmd := w, dIn := 0 }

/-- A silent host; `d_in` is `b`. -/
def quiet (b : Byte) : EdgeInput := { rst := false, cmdValid := false, cmd := 0, dIn := b }

/-- A reset edge with a command on the port. -/
def resetting (w : Word) : EdgeInput := { rst := true, cmdValid := true, cmd := w, dIn := 0 }

/-- Configuration V with BCAST = false. -/
def serial : Config := { Config.vectors with bcast := false }

/-- NMOD = 3, W = 5 (95 sections 2.4.1 and 2.4.2). -/
def threeByFive : Config := { Config.vectors with nmod := 3, w := 5, rat := RegTable.default 5 }

/-- After reset under `c`, with listed inputs. -/
def fresh (c : Config) (l : List EdgeInput) : State := { State.resetOf c with inputs := l }

/-- The cycles a command has scheduled when it is put to `s`, the first one running. -/
def emitted (i : Instr) (s : State) : Option (List Desc) := (nextState (exec i s)).map State.cycles

/-- STATUS after a command is put to `s`. -/
def statusAfter (i : Instr) (s : State) : Option (BitVec 16) := (nextState (exec i s)).map State.statusWord

/-- Configuration V in step `p` of a cycle, one edge of its dwell left: of WD(0x30, 0x05, {0}) or of RD(0x30, 0, k);
BR = 5. -/
def mid (p : Phase) (k : ReadKind) (l : List EdgeInput) : State :=
  { State.reset with
    ph := p
    cnt := 1
    cur := some (if p.isRead then .rd 0x30 0 k else .wd 0x30 0x05 [0])
    aOut := 0x30
    dOut := 0x05
    dOe := !p.turnsRound
    ceN := [!p.selects, true]
    wrN := decide (p ≠ .w3)
    rdN := decide (p ≠ .r4 ∧ p ≠ .r5)
    inputs := l
    cwg := { br := 5, fe := false, be := false, cl := false } }

/-- The step after `mid p`. -/
def afterMid (p : Phase) (k : ReadKind) (i : EdgeInput) : Option State := nextState (step (mid p k [i]))

/-! ### Commands: the vectors of 95 -/

/-- B1, T1 at t0. -/
theorem test_wrreg_T1 : (nextState (step (fresh Config.vectors [present 0x10013A48]))).map
    (fun s => (s.cycles, s.ph, s.aOut, s.dOut, s.statusWord)) =
      some ([.wd 0x3A 0x48 [1]], .w1, 0x3A, 0x48, 0x0001) := by decide
/-- B4. -/
theorem test_wrreg_B4 : statusAfter (.wrreg (.one 2) 0x30 0) State.reset = some 0x000A := by decide
/-- T4, B2. -/
theorem test_wrreg_all_T4 :
    emitted (.wrreg .all 0x30 0x00) (State.resetOf serial) = some [.wd 0x30 0x00 [0], .wd 0x30 0x00 [1]] ∧
    emitted (.wrreg .all 0x30 0x00) State.reset = some [.wd 0x30 0x00 [0, 1]] := by decide
/-- B6. -/
theorem test_rdreg_B6 : emitted (.rdreg (.one 1) 0x38) State.reset = some [.rd 0x38 1 .raw] := by decide
/-- B7. -/
theorem test_rdreg_B7 : statusAfter (.rdreg .all 0x30) State.reset = some 0x000A := by decide
/-- M11, M12. -/
theorem test_wrlog_M11_M12 : emitted (.wrlog .udcRam (.one 0) 6 0x1F) State.reset = some [.wd 0x2E 0x1F [0]] ∧
    statusAfter (.wrlog .udcRam (.one 0) 7 0) State.reset = some 0x0012 := by decide
/-- M20: BAD_TARGET before BAD_INDEX. -/
theorem test_wrlog_M20 : statusAfter (.wrlog .char (.one 5) 9 0x48) State.reset = some 0x000A := by decide
/-- M9, M10. -/
theorem test_wrpos_M9_M10 :
    emitted (.wrpos .char 7 0x78) (State.resetOf threeByFive) = some [.wd 0x3A 0x78 [1]] ∧
    emitted (.wrpos .char 14 0x41) (State.resetOf threeByFive) = some [.wd 0x3C 0x41 [2]] := by decide
/-- M3, M4. -/
theorem test_wrpos_M3_M4 : emitted (.wrpos .char 15 0x5A) State.reset = some [.wd 0x3F 0x5A [1]] ∧
    statusAfter (.wrpos .char 16 0x41) State.reset = some 0x000E := by decide

/-- The state after S5: BR = 5, STREQ = [0, 1]. -/
def afterS5 : State :=
  { State.reset with cwg := { br := 5, fe := false, be := false, cl := false }, streq := [false, true] }

/-- S1. -/
theorem test_setbri_S1 : emitted (.setbri 5) State.reset = some [.wd 0x30 0x05 [0, 1]] := by decide
/-- S6: the request bits differ, so each module gets its own byte. -/
theorem test_setbri_S6 : emitted (.setbri 3) afterS5 = some [.wd 0x30 0x03 [0], .wd 0x30 0x43 [1]] := by decide
/-- S2. -/
theorem test_setflen_S2 : emitted (.setflen true) { afterS5 with streq := [false, false] } =
    some [.wd 0x30 0x0D [0, 1]] := by decide
/-- S3. -/
theorem test_setblen_S3 :
    emitted (.setblen true) { State.reset with cwg := { br := 5, fe := true, be := false, cl := false } } =
      some [.wd 0x30 0x1D [0, 1]] := by decide
/-- S4. -/
theorem test_setclr_S4 : emitted (.setclr true) State.reset = some [.wd 0x30 0x80 [0, 1]] := by decide
/-- S7. -/
theorem test_setclr_S7 :
    emitted (.setclr true) { afterS5 with cwg := { br := 3, fe := false, be := false, cl := false } } =
      some [.wd 0x30 0x83 [0], .wd 0x30 0xC3 [1]] := by decide
/-- S5. -/
theorem test_selftest_S5 : (nextState (exec (.selftest (.one 1) true) { afterS5 with streq := [false, false] })).map
    (fun s => (s.cycles, s.streq)) = some ([.wd 0x30 0x45 [1]], [false, true]) := by decide
/-- S12. -/
theorem test_selftest_S12 : statusAfter (.selftest .all true) State.reset = some 0x000A := by decide
/-- S13. -/
theorem test_rdtest_S13 : emitted (.rdtest (.one 0)) State.reset = some [.rd 0x30 0 .test] := by decide
/-- S16. -/
theorem test_rdtest_S16 : statusAfter (.rdtest (.one 2)) State.reset = some 0x000A ∧
    statusAfter (.rdtest .all) State.reset = some 0x000A := by decide
/-- M23: TW = 15, so bit 7 of the second chunk is dropped. -/
theorem test_ldfmap_M23 : (nextState (exec (.ldfmap 1 0xFF) (State.resetOf threeByFive))).map
    (fun s => (s.fmap, s.statusWord)) =
      some (List.replicate 8 false ++ List.replicate 7 true, 0x0000) := by decide
/-- M22, M24. -/
theorem test_ldfmap_M22_M24 : statusAfter (.ldfmap 2 0xFF) State.reset = some 0x0012 ∧
    statusAfter (.ldfmap 2 0xFF) (State.resetOf threeByFive) = some 0x0012 := by decide
/-- P2: FMAP = 0x8000 selects position 0 alone. -/
theorem test_flashmap_P2 :
    (emitted .flashmap { State.reset with fmap := List.replicate 15 false ++ [true] }).map
      (fun l => (l.length, l.take 2, l.getLast?)) =
      some (16, [.wd 0x00 0x01 [0], .wd 0x01 0x00 [0]], some (.wd 0x07 0x00 [1])) := by decide
/-- M25: FMAP = 0x0001 selects position 15 alone. -/
theorem test_flashmap_M25 :
    (emitted .flashmap { State.reset with fmap := true :: List.replicate 15 false }).map
      (fun l => (l.take 1, l.getLast?)) = some ([.wd 0x00 0x00 [0]], some (.wd 0x07 0x01 [1])) := by decide

/-- X1, its second command: ERRSEEN stays. -/
theorem test_X1 : statusAfter (.wrpos .char 16 0x41) { State.reset with errSeen := true, lastErr := .badTarget } =
    some 0x000E := by decide
/-- X2, its first word. -/
theorem test_X2 : (nextState (step (fresh Config.vectors [present 0]))).map State.statusWord = some 0x0006 := by decide
/-- X3: reset wins. -/
theorem test_X3 : (nextState (step (fresh Config.vectors [resetting 0]))).map State.statusWord = some 0x0000 := by decide

/-! ### Edges: T1, T2, S13 to S15, Z2 -/

/-- T1, t0+1, t0+4 and t0+5. -/
theorem test_write_cycle_T1 :
    (afterMid .w1 .raw (quiet 0)).map (fun s => (s.ph, s.ceN)) = some (.w2, [false, true]) ∧
    (afterMid .w3 .raw (quiet 0)).map (fun s => (s.ph, s.wrN, s.ceN)) = some (.w4, true, [false, true]) ∧
    (afterMid .w4 .raw (quiet 0)).map (fun s => (s.ph, s.ceN)) = some (.w5, [true, true]) := by decide
/-- T1, t0+2: the strobe falls, for N_WP = 2 edges. -/
theorem test_write_strobe_T1 :
    (afterMid .w2 .raw (quiet 0)).map (fun s => (s.ph, s.cnt, s.wrN)) = some (.w3, 2, false) := by decide
/-- T1, t0+6. -/
theorem test_write_end_T1 :
    (afterMid .w5 .raw (quiet 0)).map (fun s => (s.ph, s.cnt, s.cur, s.aOut, s.statusWord)) =
      some (.idle, 0, none, 0x30, 0x0000) := by decide
/-- T2, t0+1 to t0+3. -/
theorem test_read_cycle_T2 :
    (afterMid .r1 .raw (quiet 0)).map (fun s => (s.ph, s.dOe)) = some (.r2, false) ∧
    (afterMid .r2 .raw (quiet 0)).map (fun s => (s.ph, s.ceN)) = some (.r3, [false, true]) ∧
    (afterMid .r3 .raw (quiet 0)).map (fun s => (s.ph, s.cnt, s.rdN)) = some (.r4, 2, false) := by decide
/-- T2, t0+5: RDATA takes d_in, TR stays. -/
theorem test_read_sample_T2 : (afterMid .r4 .raw (quiet 0x20)).map (fun s => (s.ph, s.rdN, s.rdata, s.tr)) =
    some (.r5, false, 0x20, false) := by decide
/-- T2, t0+6 to t0+9. -/
theorem test_read_end_T2 :
    (afterMid .r5 .raw (quiet 0)).map (fun s => (s.ph, s.rdN)) = some (.r6, true) ∧
    (afterMid .r6 .raw (quiet 0)).map (fun s => (s.ph, s.ceN, s.dOe)) = some (.r7, [true, true], false) ∧
    (afterMid .r7 .raw (quiet 0)).map (fun s => (s.ph, s.dOe)) = some (.r8, true) ∧
    (afterMid .r8 .raw (quiet 0)).map (fun s => (s.ph, s.cnt)) = some (.idle, 0) := by decide
/-- S13 and S15: TR is bit 5 of the sampled byte. -/
theorem test_test_read_S13_S15 :
    (afterMid .r4 .test (quiet 0x25)).map (fun s => (s.rdata, s.tr)) = some (0x25, true) ∧
    (afterMid .r4 .test (quiet 0xDF)).map (fun s => (s.rdata, s.tr)) = some (0xDF, false) := by decide
/-- Z2: a reset in W3. -/
theorem test_reset_Z2 :
    (afterMid .w3 .raw (resetting 0)).map (fun s => (s.ph, s.wrN, s.ceN, s.aOut, s.dOut, s.statusWord)) =
      some (.idle, true, [true, true], 0x00, 0x00, 0x0000) := by decide
/-- E9: 2 ticks of 50 ns make 100 ns, 1 tick does not, 1 tick of 1000 ns does. -/
theorem test_config_E9 : Config.vectors.ok = true ∧ ({ Config.vectors with nWP := 1 } : Config).ok = false ∧
    ({ Config.vectors with nWP := 1, tTick := 1000000 } : Config).ok = true := by decide
/-- 00 R7: a RAT that is not injective, a CWL position twice, a dwell of 0, no module. -/
theorem test_config_refused :
    [{ Config.vectors with rat := { RegTable.default 8 with ctrl := 0x38 } },
      { Config.vectors with cwl := { fe := 3, be := 3, tr := 5, st := 6, cl := 7 } },
      { Config.vectors with nDZ := 0 }, { Config.vectors with nmod := 0 }].all (fun c : Config => !c.ok) = true := by
  decide
/-- A command presented by `withFetchWord` runs at the very next step. -/
theorem test_withFetchWord : (nextState (step (State.reset.withFetchWord 32 0x43000A48))).map State.cycles =
    some [.wd 0x3A 0x48 [1]] := by decide

/-! ### The assembler: 30 R101 to R104 -/

theorem test_asm_wrlog : assembleLine 16 "wrlog char, m1, 2, 'H' ; the R101 example".toList =
    .ok [.wrlog .char (.one 1) 2 0x48] := by decide
theorem test_asm_puts : assembleLine 16 "PUTS 14, \"HE\"".toList = .ok [.wrpos .char 14 0x48, .wrpos .char 15 0x45] := by
  decide
/-- P2: FMAPLOAD 0x8000 is LDFMAP 0, 0x00 and LDFMAP 1, 0x80. -/
theorem test_asm_fmapload : assembleLine 16 "FMAPLOAD 0x8000".toList = .ok [.ldfmap 0 0x00, .ldfmap 1 0x80] := by decide
/-- 30 R104 slices any value: TW = 15, and a value with a bit beyond the last chunk. -/
theorem test_asm_fmapload_any_value : assembleLine 15 "FMAPLOAD 0xFFFF".toList = .ok [.ldfmap 0 0xFF, .ldfmap 1 0xFF] ∧
    assembleLine 15 "FMAPLOAD 0x10001".toList = .ok [.ldfmap 0 0x01, .ldfmap 1 0x00] := by decide
theorem test_asm_refuses : assembleLine 16 "SETBRI 8".toList = .error .badOperand ∧
    assembleLine 16 "WRPOS ctrl, 0, 1".toList = .error .badOperand := by decide

/-! ### Witnesses: for each obligation with hypotheses, states and operands that meet them -/

/-- A state with an outcome that is a next state. -/
theorem next_of_isSome {o : Host.Outcome State Fault Refusal} (h : (nextState o).isSome = true) : ∃ s, o = .next s := by
  cases o with
  | next s => exact ⟨s, rfl⟩
  | fault _ => cases h
  | refused _ => cases h

/-- A next state with a property. -/
theorem next_of_any {o : Host.Outcome State Fault Refusal} {P : State → Bool} (h : (nextState o).any P = true) :
    ∃ s, o = .next s ∧ P s = true := by
  cases o with
  | next s => exact ⟨s, rfl, h⟩
  | fault _ => cases h
  | refused _ => cases h

/-- A state of these tests with the port ready has the invariant. -/
theorem fresh_inv (l : List EdgeInput) : Inv (fresh Config.vectors l) := by
  refine ⟨⟨by show Config.vectors.ok = true; decide, rfl, rfl, rfl, fun _ => ⟨rfl, rfl, rfl⟩, fun h => absurd rfl h,
    fun h => absurd rfl h, ?_, ?_⟩, ⟨?_, ?_, ?_, ?_, ?_, ?_⟩⟩
  case refine_6 => rintro (_ | _ | m) <;> simp [fresh, State.chipSelect, Phase.selects, Config.vectors, State.resetOf]
  all_goals simp [fresh, Phase.turnsRound, State.resetOf]

/-- A state of these tests in a step of a cycle has the invariant. -/
theorem mid_inv (p : Phase) (k : ReadKind) (l : List EdgeInput) (hp : p ≠ .idle) : Inv (mid p k l) := by
  refine ⟨⟨by show Config.vectors.ok = true; decide, rfl, rfl, rfl, fun h => absurd h hp, fun _ => ⟨_, rfl, ?_⟩, ?_, ?_,
    ?_⟩, ⟨?_, ?_, ?_, ?_, ?_, ?_⟩⟩
  case refine_8 =>
    rintro (_ | _ | m) <;> cases p <;>
      simp [mid, State.chipSelect, Phase.selects, Phase.isRead, Desc.modules, State.reset, State.resetOf]
  all_goals
    cases p <;> simp_all [mid, Phase.isRead, Phase.isWrite, Phase.dwell, Phase.turnsRound, Desc.hasStep, Desc.legal,
      Desc.modules, Desc.addr, State.reset, State.resetOf, Config.vectors]

/-- The states of `mid` step on. -/
theorem mid_next {p : Phase} {k : ReadKind} {l : List EdgeInput} (P : State → Bool)
    (h : (nextState (step (mid p k l))).any P = true) :
    ∃ s s', s = mid p k l ∧ step s = .next s' ∧ P s' = true :=
  let ⟨s', h1, h2⟩ := next_of_any h
  ⟨_, s', rfl, h1, h2⟩

theorem witness_EncodedCommandsDecodeBack : (Instr.wrpos .flash 0xFFFF 0xFF).wf = true ∧
    (Instr.wrreg (.one 254) 0xFF 0x00).wf = true ∧ (Instr.wrlog .ctrl .all 0xFF 0xFF).wf = true := by decide

theorem witness_DecodedWordsEncodeBack : decode 0x44FFFF01 = .ok (.wrpos .flash 0xFFFF 0x01) ∧
    decode 0x90FE0001 = .ok (.selftest (.one 254) true) := by decide

theorem witness_ReservedOpcodesAreRejectedWithIllegal :
    (opField 0x00000000 = 0x0 ∧ Accepts (fresh Config.vectors [present 0x00000000]) 0x00000000) ∧
    (opField 0xD0000001 = 0xD ∧ Accepts (fresh Config.vectors [present 0xD0000001]) 0xD0000001) ∧
    (opField 0xE0000000 = 0xE ∧ Accepts (fresh Config.vectors [present 0xE0000000]) 0xE0000000) ∧
    (opField 0xFFFFFFFF = 0xF ∧ Accepts (fresh Config.vectors [present 0xFFFFFFFF]) 0xFFFFFFFF) := by decide

theorem witness_AssemblerEmitsNoIllegalWord :
    assembleLine 16 "PUTF 65535, 1".toList = .ok [.wrpos .flash 0xFFFF 1] := by decide

theorem witness_StepRunsTheDecodedCommand :
    Accepts (fresh Config.vectors [present 0x43000A48]) 0x43000A48 ∧
      decode 0x43000A48 = .ok (.wrpos .char 10 0x48) := by decide

theorem witness_UndecodableWordsAreRejectedWithIllegal :
    Accepts (fresh Config.vectors [present 0x50000008]) 0x50000008 ∧ decode 0x50000008 = .error .nonzeroField := by
  decide

theorem witness_IdleEdgeWithoutCommandChangesNothing : Ready (fresh Config.vectors [quiet 0x5A]) ∧
    (fresh Config.vectors [quiet 0x5A]).pins.rst = false ∧ (fresh Config.vectors [quiet 0x5A]).pins.cmdValid = false := by
  decide

theorem witness_BusySequencerIgnoresTheCommandPort : (mid .w3 .raw []).ph ≠ .idle ∧ present 0x50000005 ≠ quiet 0 ∧
    (present 0x50000005).rst = (quiet 0).rst ∧ (present 0x50000005).dIn = (quiet 0).dIn := by decide

/-- One edge before the sample step's, one after it, and R4 with an edge of its dwell left. -/
theorem witness_DataPinsMatterOnlyAtTheSampleStep :
    (¬ ((mid .r3 .raw []).ph = .r4 ∧ (mid .r3 .raw []).cnt ≤ 1)) ∧
    (¬ ((mid .r5 .raw []).ph = .r4 ∧ (mid .r5 .raw []).cnt ≤ 1)) ∧
    (¬ ({ mid .r4 .raw [] with cnt := 2 }.ph = Phase.r4 ∧ { mid .r4 .raw [] with cnt := 2 }.cnt ≤ 1)) ∧
    quiet 1 ≠ quiet 2 ∧ (quiet 1).rst = (quiet 2).rst ∧ (quiet 1).cmdValid = (quiet 2).cmdValid ∧
    (quiet 1).cmd = (quiet 2).cmd := by decide

theorem witness_CommandWaitsWhileThePortIsNotReady :
    (mid .w1 .raw []).cfg.ok = true ∧ (mid .w1 .raw []).ph ≠ .idle := by decide

theorem witness_ResetEdgeGivesEveryItemItsResetValue :
    ((mid .r5 .test [resetting 0x50000005]).cfg.ok = true ∧ (mid .r5 .test [resetting 0x50000005]).pins.rst = true) ∧
    (fresh Config.vectors [resetting 0x50000005]).pins.rst = true := by decide

/-- NMOD = 2: the first and the last module, and both settings of BCAST. -/
theorem witness_WrregStartsItsWrites : Ready State.reset ∧ (0 : Fin 255).val < State.reset.cfg.nmod ∧
    (1 : Fin 255).val < State.reset.cfg.nmod ∧ State.reset.cfg.bcast = true ∧
    Ready (State.resetOf serial) ∧ (State.resetOf serial).cfg.bcast = false := by decide

theorem witness_RdregStartsItsRead : Ready State.reset ∧ (0 : Fin 255).val < State.reset.cfg.nmod ∧
    (1 : Fin 255).val < State.reset.cfg.nmod := by decide

/-- The last index of each space. -/
theorem witness_WrlogStartsItsWrites : Ready State.reset ∧ Ready (State.resetOf serial) ∧
    ((0 : Byte) = 0 ∧ (0x20 : Byte) = State.reset.cfg.rat.udcAddr) ∧
    State.reset.cfg.rat.udcRam[(6 : Byte).toNat]? = some 0x2E ∧
    ((0 : Byte) = 0 ∧ (0x30 : Byte) = State.reset.cfg.rat.ctrl) ∧
    State.reset.cfg.rat.char[(7 : Byte).toNat]? = some 0x3F ∧
    State.reset.cfg.rat.flash[(7 : Byte).toNat]? = some 0x07 ∧ (1 : Fin 255).val < State.reset.cfg.nmod := by decide

/-- The first and the last position. -/
theorem witness_WrposWritesTheResolvedPosition : Ready State.reset ∧
    (0 : BitVec 16).toNat < State.reset.cfg.nmod * State.reset.cfg.w ∧
    (15 : BitVec 16).toNat < State.reset.cfg.nmod * State.reset.cfg.w ∧
    State.reset.cfg.rat.char[(15 : BitVec 16).toNat % State.reset.cfg.w]? = some 0x3F ∧
    State.reset.cfg.rat.flash[(0 : BitVec 16).toNat % State.reset.cfg.w]? = some 0x00 := by decide

/-- TW = 15: the last chunk has seven bits. -/
theorem witness_LdfmapLoadsOneChunkOfTheBitmap : Ready (State.resetOf threeByFive) ∧
    (State.resetOf threeByFive).fmap.length = (State.resetOf threeByFive).cfg.tw ∧
    8 * (1 : BitVec 16).toNat < (State.resetOf threeByFive).cfg.tw ∧ 14 < (State.resetOf threeByFive).cfg.tw := by decide

theorem witness_FlashmapWritesEveryPositionInOrder : Ready State.reset ∧
    15 < State.reset.cfg.nmod * State.reset.cfg.w ∧
    State.reset.cfg.rat.flash[15 % State.reset.cfg.w]? = some 0x07 := by decide

theorem witness_SetbriUpdatesBrightnessAndWritesItOut : Ready State.reset ∧ Ready afterS5 := by decide
theorem witness_SetflenUpdatesFlashEnableAndWritesItOut : Ready State.reset ∧ Ready afterS5 := by decide
theorem witness_SetblenUpdatesBlinkEnableAndWritesItOut : Ready State.reset ∧ Ready (State.resetOf serial) := by decide
theorem witness_SetclrUpdatesTheClearFieldAndWritesItOut : Ready State.reset ∧ Ready (State.resetOf serial) := by decide

theorem witness_SelftestUpdatesAndWritesOneModule : Ready afterS5 ∧ (1 : Fin 255).val < afterS5.cfg.nmod ∧
    afterS5.streq.length = afterS5.cfg.nmod := by decide

theorem witness_RdtestStartsItsRead : Ready State.reset ∧ (1 : Fin 255).val < State.reset.cfg.nmod := by decide

theorem witness_ControlWordByteHasItsFields : afterS5.cfg.ok = true ∧
    afterS5.cfg.cwl = { fe := 3, be := 4, tr := 5, st := 6, cl := 7 } := by decide

/-- The first module that does not exist, and the last number TS can name. -/
theorem witness_BadTargetsAreRejected : Ready State.reset ∧ State.reset.cfg.nmod ≤ (2 : Fin 255).val ∧
    State.reset.cfg.nmod ≤ (254 : Fin 255).val := by decide

theorem witness_PositionsBeyondTheEndAreDropped : Ready State.reset ∧
    State.reset.cfg.nmod * State.reset.cfg.w ≤ (16 : BitVec 16).toNat ∧
    State.reset.cfg.nmod * State.reset.cfg.w ≤ (0xFFFF : BitVec 16).toNat := by decide

/-- The first index outside each space, with a target that passes, and the first chunk beyond FMAP. -/
theorem witness_BadIndexesAreRejected : Ready State.reset ∧ (0 < (1 : Byte).toNat ∧ 6 < (7 : Byte).toNat ∧
    State.reset.cfg.w ≤ (8 : Byte).toNat ∧ State.reset.cfg.tw ≤ 8 * (2 : BitVec 16).toNat) ∧
    (∀ m, Target.one 1 = .one m → m.val < State.reset.cfg.nmod) ∧
    (∀ m, Target.all = .one m → m.val < State.reset.cfg.nmod) := by
  refine ⟨by decide, by decide, ?_, fun m h => by cases h⟩
  intro m h
  cases h
  decide

/-- A command that passes and one with two failing checks. -/
theorem witness_LastErrTakesTheFirstFailingCheck : Ready State.reset ∧
    (∃ s', exec (.setbri 7) State.reset = .next s') ∧
    ∃ s', exec (.wrlog .char (.one 5) 9 0x48) State.reset = .next s' :=
  ⟨by decide, next_of_isSome (by decide), next_of_isSome (by decide)⟩

/-- Every code. -/
theorem witness_RejectionIsPrecise : Ready State.reset ∧
    rejectionCode State.reset.cfg (.wrpos .ctrl 0 0) = .illegal ∧
    rejectionCode State.reset.cfg (.rdtest .all) = .badTarget ∧
    rejectionCode State.reset.cfg (.wrpos .char 16 0) = .posRange ∧
    rejectionCode State.reset.cfg (.ldfmap 2 0) = .badIndex := by decide

/-- A reset, an edge that keeps ERRSEEN, and one that sets it. -/
theorem witness_ErrSeenIsStickyUntilReset :
    (∃ s s', step s = .next s' ∧ s.pins.rst = true) ∧
    (∃ s s', step s = .next s' ∧ s.pins.rst = false ∧ s.errSeen = true) ∧
    (∃ s s', step s = .next s' ∧ Accepts s 0 ∧ s.pins.rst = false ∧ s.errSeen = false ∧ s'.lastErr ≠ .none ∧
      s'.errSeen = true) := by
  refine ⟨⟨mid .w3 .raw [resetting 0], ?_⟩, ⟨{ fresh Config.vectors [present 0x50000005] with errSeen := true }, ?_⟩,
    ⟨fresh Config.vectors [present 0], ?_⟩⟩
  · obtain ⟨s', h⟩ := next_of_isSome (o := step (mid .w3 .raw [resetting 0])) (by decide)
    exact ⟨s', h, by decide⟩
  · obtain ⟨s', h⟩ := next_of_isSome
      (o := step { fresh Config.vectors [present 0x50000005] with errSeen := true }) (by decide)
    exact ⟨s', h, by decide, by decide⟩
  · obtain ⟨s', h, hp⟩ := next_of_any (o := step (fresh Config.vectors [present 0]))
      (P := fun t => decide (t.lastErr ≠ .none) && t.errSeen) (by decide)
    simp only [Bool.and_eq_true, decide_eq_true_eq] at hp
    exact ⟨s', h, by decide, by decide, by decide, hp.1, hp.2⟩

theorem witness_ResolveIsAMonotoneBijection : threeByFive.ok = true ∧ 14 < threeByFive.tw ∧ 0 < threeByFive.tw ∧
    (2 < threeByFive.nmod ∧ 4 < threeByFive.w) ∧ (4 : Nat) ≤ 5 := by decide

theorem witness_WriteExpansionGivesEveryTargetItsWrites : (1 : Fin 255).val < Config.vectors.nmod ∧
    Config.vectors.bcast = true ∧ serial.bcast = false ∧
    Desc.wd 0x30 0 [0, 1] ∈ expandW Config.vectors 0x30 0 .all := by decide

theorem witness_RegisterAddressesAreDistinct : Config.vectors.ok = true ∧ indexOk Config.vectors .udcRam 6 = true ∧
    regAddr Config.vectors .udcRam 6 = regAddr Config.vectors .udcRam 6 := by decide

/-- Every step of the cycle; at the last one an empty queue, a write waiting and a read waiting. -/
theorem witness_WriteCycleFollowsItsTable : ∀ p ∈ [Phase.w1, .w2, .w3, .w4, .w5],
    ∀ q ∈ [[], [Desc.wd 0x31 1 [1]], [Desc.rd 0x31 1 .raw]],
      let s := { mid p .raw [quiet 0] with cq := q }
      s.cfg.ok = true ∧ s.pins.rst = false ∧ s.cur = some (.wd 0x30 0x05 [0]) ∧ s.cnt = 1 ∧ s.ph = p ∧ s.cq = q := by
  decide

theorem witness_ReadCycleFollowsItsTable : ∀ p ∈ [Phase.r1, .r2, .r3, .r4, .r5, .r6, .r7, .r8],
    ∀ q ∈ [[], [Desc.wd 0x31 1 [1]], [Desc.rd 0x31 1 .raw]], ∀ k ∈ [ReadKind.raw, .test],
      let s := { mid p k [quiet 0x20] with cq := q }
      s.cfg.ok = true ∧ s.pins.rst = false ∧ s.cur = some (.rd 0x30 0 k) ∧ s.cnt = 1 ∧ s.ph = p ∧ s.cq = q := by
  decide

theorem witness_DwellCountsDownOneAnEdge :
    let s := { mid .w3 .raw [quiet 0] with cnt := 2 }
    s.cfg.ok = true ∧ s.pins.rst = false ∧ s.cur = some (.wd 0x30 0x05 [0]) ∧
      (Desc.wd 0x30 0x05 [0]).hasStep s.ph = true ∧ 1 < s.cnt := by decide

theorem witness_ResetStateHasTheInvariant : Config.vectors.ok = true ∧ threeByFive.ok = true := by decide

/-- A command accepted, an edge inside a cycle, and a reset in one. -/
theorem witness_EveryStepKeepsTheInvariant :
    (∃ s s', Inv s ∧ step s = .next s' ∧ s.ph = .idle ∧ s'.ph = .w1) ∧
    (∃ s s', Inv s ∧ step s = .next s' ∧ s.ph = .w3 ∧ s'.ph = .w4) ∧
    (∃ s s', Inv s ∧ step s = .next s' ∧ s.ph = .r5 ∧ s'.ph = .idle) := by
  refine ⟨?_, ?_, ?_⟩
  · obtain ⟨s', h, hp⟩ := next_of_any (o := step (fresh Config.vectors [present 0x50000005]))
      (P := fun t => decide (t.ph = .w1)) (by decide)
    exact ⟨_, s', fresh_inv _, h, rfl, by simpa using hp⟩
  · obtain ⟨s, s', rfl, h, hp⟩ := mid_next (p := .w3) (k := .raw) (l := [quiet 0]) (fun t => decide (t.ph = .w4)) (by decide)
    exact ⟨_, s', mid_inv _ _ _ (by decide), h, rfl, by simpa using hp⟩
  · obtain ⟨s, s', rfl, h, hp⟩ :=
      mid_next (p := .r5) (k := .raw) (l := [resetting 0]) (fun t => decide (t.ph = .idle)) (by decide)
    exact ⟨_, s', mid_inv _ _ _ (by decide), h, rfl, by simpa using hp⟩

theorem witness_EveryEdgeHasANextState : Inv (mid .r4 .test [quiet 0x20]) ∧ Inv (fresh Config.vectors [present 0]) :=
  ⟨mid_inv _ _ _ (by decide), fresh_inv _⟩

/-- A write strobe low, a read strobe low, a new address and data, and data pins turned. -/
theorem witness_BusOutputsObeyTheTimingContract :
    (∃ s s', Inv s ∧ step s = .next s' ∧ s'.wrN = false ∧ s'.ceN[0]? = some false ∧
      s'.cur = some (.wd 0x30 0x05 [0]) ∧ s'.ph.selects = true) ∧
    (∃ s s', Inv s ∧ step s = .next s' ∧ s'.rdN = false ∧ s'.dOe = false) ∧
    (∃ s s', Inv s ∧ step s = .next s' ∧ s.pins.rst = false ∧ s'.aOut ≠ s.aOut ∧ s'.dOut ≠ s.dOut) := by
  refine ⟨?_, ?_, ?_⟩
  · obtain ⟨s, s', rfl, h, hp⟩ := mid_next (p := .w2) (k := .raw) (l := [quiet 0])
      (fun t => decide (t.wrN = false ∧ t.ceN[0]? = some false ∧ t.cur = some (.wd 0x30 0x05 [0]) ∧
        t.ph.selects = true)) (by decide)
    exact ⟨_, s', mid_inv _ _ _ (by decide), h, by simpa using hp⟩
  · obtain ⟨s, s', rfl, h, hp⟩ := mid_next (p := .r3) (k := .raw) (l := [quiet 0])
      (fun t => decide (t.rdN = false ∧ t.dOe = false)) (by decide)
    exact ⟨_, s', mid_inv _ _ _ (by decide), h, by simpa using hp⟩
  · obtain ⟨s', h, hp⟩ := next_of_any (o := step (fresh Config.vectors [present 0x10013A48]))
      (P := fun t => decide (t.aOut ≠ 0 ∧ t.dOut ≠ 0)) (by decide)
    exact ⟨_, s', fresh_inv _, h, rfl, of_decide_eq_true hp⟩

/-- Every register of the bus changes at some edge. -/
theorem witness_BusRegistersChangeOnlyAtTheirSteps :
    (∃ s s', Inv s ∧ step s = .next s' ∧ s.pins.rst = false ∧ s'.ceN ≠ s.ceN) ∧
    (∃ s s', Inv s ∧ step s = .next s' ∧ s.pins.rst = false ∧ s'.wrN ≠ s.wrN) ∧
    (∃ s s', Inv s ∧ step s = .next s' ∧ s.pins.rst = false ∧ s'.rdN ≠ s.rdN) ∧
    (∃ s s', Inv s ∧ step s = .next s' ∧ s.pins.rst = false ∧ s'.dOe ≠ s.dOe) ∧
    (∃ s s', Inv s ∧ step s = .next s' ∧ s.pins.rst = false ∧ s'.aOut ≠ s.aOut ∧ s'.dOut ≠ s.dOut) := by
  refine ⟨?_, ?_, ?_, ?_, ?_⟩
  · obtain ⟨s, s', rfl, h, hp⟩ := mid_next (p := .w4) (k := .raw) (l := [quiet 0])
      (fun t => decide (t.ceN ≠ [false, true])) (by decide)
    exact ⟨_, s', mid_inv _ _ _ (by decide), h, rfl, of_decide_eq_true hp⟩
  · obtain ⟨s, s', rfl, h, hp⟩ := mid_next (p := .w3) (k := .raw) (l := [quiet 0])
      (fun t => decide (t.wrN ≠ false)) (by decide)
    exact ⟨_, s', mid_inv _ _ _ (by decide), h, rfl, of_decide_eq_true hp⟩
  · obtain ⟨s, s', rfl, h, hp⟩ := mid_next (p := .r5) (k := .raw) (l := [quiet 0])
      (fun t => decide (t.rdN ≠ false)) (by decide)
    exact ⟨_, s', mid_inv _ _ _ (by decide), h, rfl, of_decide_eq_true hp⟩
  · obtain ⟨s, s', rfl, h, hp⟩ := mid_next (p := .r1) (k := .raw) (l := [quiet 0])
      (fun t => decide (t.dOe ≠ true)) (by decide)
    exact ⟨_, s', mid_inv _ _ _ (by decide), h, rfl, of_decide_eq_true hp⟩
  · obtain ⟨s', h, hp⟩ := next_of_any (o := step (fresh Config.vectors [present 0x10013A48]))
      (P := fun t => decide (t.aOut ≠ 0 ∧ t.dOut ≠ 0)) (by decide)
    exact ⟨_, s', fresh_inv _, h, rfl, of_decide_eq_true hp⟩

/-- A reset, a sample of each kind, and an edge without one. -/
theorem witness_SampleStepAloneWritesRdataAndTr :
    (∃ s s', step s = .next s' ∧ s.pins.rst = true) ∧
    (∀ k, ∃ s s', step s = .next s' ∧ s.pins.rst = false ∧ s.ph = .r4 ∧ s'.ph = .r5 ∧ s.cur = some (.rd 0x30 0 k)) ∧
    (∃ s s', step s = .next s' ∧ s.pins.rst = false ∧ ¬ (s.ph = .r4 ∧ s'.ph = .r5)) := by
  refine ⟨?_, fun k => ?_, ?_⟩
  · obtain ⟨s, s', rfl, h, -⟩ := mid_next (p := .r4) (k := .test) (l := [resetting 0]) (fun _ => true) (by decide)
    exact ⟨_, s', h, rfl⟩
  · obtain ⟨s, s', rfl, h, hp⟩ := mid_next (p := .r4) (k := k) (l := [quiet 0x25]) (fun t => decide (t.ph = .r5))
      (by cases k <;> decide)
    exact ⟨_, s', h, rfl, rfl, of_decide_eq_true hp, rfl⟩
  · obtain ⟨s, s', rfl, h, -⟩ := mid_next (p := .r5) (k := .test) (l := [quiet 0x25]) (fun _ => true) (by decide)
    exact ⟨_, s', h, rfl, fun hc => absurd hc.1 (by decide)⟩

/-- A reset, a command accepted, a word rejected, and an edge that accepts nothing. -/
theorem witness_LastErrIsWrittenAtEveryAcceptance :
    (∃ s s', step s = .next s' ∧ s.pins.rst = true) ∧
    (∃ s s', step s = .next s' ∧ Accepts s 0x10023000 ∧ decode 0x10023000 = .ok (.wrreg (.one 2) 0x30 0)) ∧
    (∃ s s', step s = .next s' ∧ Accepts s 0xD0000000 ∧ decode 0xD0000000 = .error .reservedOp) ∧
    (∃ s s', step s = .next s' ∧ s.pins.rst = false ∧ ∀ w, ¬ Accepts s w) := by
  refine ⟨?_, ?_, ?_, ?_⟩
  · obtain ⟨s', h⟩ := next_of_isSome (o := step (fresh Config.vectors [resetting 0])) (by decide)
    exact ⟨_, s', h, rfl⟩
  · obtain ⟨s', h⟩ := next_of_isSome (o := step (fresh Config.vectors [present 0x10023000])) (by decide)
    exact ⟨_, s', h, by decide, by decide⟩
  · obtain ⟨s', h⟩ := next_of_isSome (o := step (fresh Config.vectors [present 0xD0000000])) (by decide)
    exact ⟨_, s', h, by decide, by decide⟩
  · obtain ⟨s, s', rfl, h, -⟩ := mid_next (p := .w1) (k := .raw) (l := [present 0]) (fun _ => true) (by decide)
    exact ⟨_, s', h, rfl, fun w hw => absurd hw.1.2 (by decide)⟩

/-- BUSY rises, and BUSY falls. -/
theorem witness_BusyRisesAtAcceptanceAndFallsAtTheLastDwell :
    (∃ s s', Inv s ∧ step s = .next s' ∧ s.busy = false ∧ s'.busy = true) ∧
    (∃ s s', Inv s ∧ step s = .next s' ∧ s.busy = true ∧ s'.busy = false) := by
  refine ⟨?_, ?_⟩
  · obtain ⟨s', h, hp⟩ := next_of_any (o := step (fresh Config.vectors [present 0xC0000000])) (P := State.busy) (by decide)
    exact ⟨_, s', fresh_inv _, h, by decide, hp⟩
  · obtain ⟨s, s', rfl, h, hp⟩ := mid_next (p := .r8) (k := .raw) (l := [quiet 0]) (fun t => !t.busy) (by decide)
    exact ⟨_, s', mid_inv _ _ _ (by decide), h, by decide, by simpa using hp⟩

theorem witness_NoStepChangesTheConfiguration : ∃ s s', step s = .next s' ∧ s.ph = .w2 := by
  obtain ⟨s, s', rfl, h, -⟩ := mid_next (p := .w2) (k := .raw) (l := [quiet 0]) (fun _ => true) (by decide)
  exact ⟨_, s', h, rfl⟩

/-- Each item changes at some edge: words 0x50000005, 0x60000001, 0x70000001, 0x80000001, 0x90000001 and 0xB00001FF change
BR, FE, BE, CL, STREQ and FMAP; a TEST read changes RDATA and TR. -/
theorem witness_RegistersChangeOnlyByTheirOwnCommands :
    (∀ c ∈ [(0x50000005, fun t : State => decide (t.cwg.br ≠ 0)), (0x60000001, fun t => t.cwg.fe),
        (0x70000001, fun t => t.cwg.be), (0x80000001, fun t => t.cwg.cl),
        (0x90000001, fun t => decide (t.streq ≠ [false, false])),
        ((0xB00001FF : Word), fun t => decide (t.fmap ≠ List.replicate 16 false))],
      ∃ s', step (fresh Config.vectors [present c.1]) = .next s' ∧ c.2 s' = true) ∧
    (∃ s s', step s = .next s' ∧ s.pins.rst = false ∧ s'.rdata ≠ s.rdata ∧ s'.tr ≠ s.tr) := by
  refine ⟨?_, ?_⟩
  · simp only [List.forall_mem_cons]
    exact ⟨next_of_any (by decide), next_of_any (by decide), next_of_any (by decide), next_of_any (by decide),
      next_of_any (by decide), next_of_any (by decide), by simp⟩
  · obtain ⟨s, s', rfl, h, hp⟩ := mid_next (p := .r4) (k := .test) (l := [quiet 0x25])
      (fun t => decide (t.rdata ≠ 0 ∧ t.tr ≠ false)) (by decide)
    exact ⟨_, s', h, rfl, of_decide_eq_true hp⟩

/-- A command with no cycle, one with a rejection, and one with a cycle on every position. -/
theorem witness_CommandRunsItsCyclesInOrderAndThenIsReady : ∀ i ∈ [Instr.ldfmap 0 1, .wrpos .char 16 0, .flashmap],
    ∃ s s1, Inv s ∧ s.ph = .idle ∧ exec i s = .next s1 ∧ NoReset (commandEdges s i) s1 := by
  intro i hi
  obtain ⟨s1, h, hp⟩ := next_of_any (o := exec i (fresh Config.vectors [quiet 1])) (P := fun t => decide (t.inputs = [quiet 1]))
    (by revert i; decide)
  refine ⟨_, s1, fresh_inv _, rfl, h, fun e he => ?_⟩
  have hl : e ∈ [quiet 1] := (by simpa using hp : s1.inputs = [quiet 1]) ▸ List.mem_of_mem_take he
  simp only [List.mem_singleton] at hl
  subst hl; rfl

theorem witness_WriteStrobeIsLowForExactlyItsWidth :
    ∃ s0 s, Inv s0 ∧ step s0 = .next s ∧ s0.wrN = true ∧ s.wrN = false ∧ NoReset s.cfg.nWP s := by
  obtain ⟨s0, s, rfl, h, hp⟩ := mid_next (p := .w2) (k := .raw) (l := [quiet 0, present 0, quiet 0])
    (fun t => decide (t.wrN = false ∧ ∀ e ∈ t.inputs.take t.cfg.nWP, e.rst = false)) (by decide)
  simp only [decide_eq_true_eq] at hp
  exact ⟨_, s, mid_inv _ _ _ (by decide), h, by decide, hp.1, hp.2⟩

theorem witness_ReadSamplesTheDataPinsAfterTheSetupTime :
    ∃ s0 s, Inv s0 ∧ step s0 = .next s ∧ s0.rdN = true ∧ s.rdN = false ∧ NoReset (s.cfg.nRS + 1) s ∧
      s.inputs[s.cfg.nRS - 1]? = some (quiet 0x41) := by
  obtain ⟨s0, s, rfl, h, hp⟩ := mid_next (p := .r3) (k := .raw) (l := [quiet 0, quiet 1, quiet 0x41, quiet 2])
    (fun t => !t.rdN && (t.inputs.take (t.cfg.nRS + 1)).all (fun e => !e.rst) &&
      decide (t.inputs[t.cfg.nRS - 1]? = some (quiet 0x41))) (by decide)
  simp only [Bool.and_eq_true, decide_eq_true_eq, List.all_eq_true, Bool.not_eq_true'] at hp
  exact ⟨_, s, mid_inv _ _ _ (by decide), h, by decide, hp.1.1, hp.1.2, hp.2⟩

/-- Under V the sample edge is the fifth after acceptance. -/
theorem witness_ReadCommandsDeliverTheSampledByte :
    let s := fresh Config.vectors [quiet 0, quiet 1, quiet 2, quiet 3, quiet 0x25]
    Inv s ∧ s.ph = .idle ∧ (1 : Fin 255).val < s.cfg.nmod ∧ NoReset (readEdges s.cfg) s ∧
      s.inputs[s.cfg.nAS + s.cfg.nDZ + s.cfg.nCW + s.cfg.nRS - 1]? = some (quiet 0x25) ∧
      (∃ s1, exec (.rdreg (.one 1) 0x38) s = .next s1) ∧ ∃ s1, exec (.rdtest (.one 1)) s = .next s1 :=
  ⟨fresh_inv _, rfl, by decide, by unfold NoReset; decide, by decide, next_of_isSome (by decide),
    next_of_isSome (by decide)⟩

theorem witness_GlobalSettersWriteTheShadowThrough :
    let s := fresh Config.vectors []
    Inv s ∧ s.ph = .idle ∧ (∃ s', exec (.setbri 5) s = .next s') ∧ (∃ s', exec (.setflen true) s = .next s') ∧
      (∃ s', exec (.setblen true) s = .next s') ∧ ∃ s', exec (.setclr true) s = .next s' :=
  ⟨fresh_inv _, rfl, next_of_isSome (by decide), next_of_isSome (by decide), next_of_isSome (by decide),
    next_of_isSome (by decide)⟩

/-- A setter accepted, and the edge that performs the write module 0 still lacks. -/
theorem witness_TheShadowStaysWrittenThrough :
    (∃ s s', Inv s ∧ step s = .next s' ∧ s.pins.rst = false ∧
      (∀ w i, Accepts s w → decode w = .ok i → rawControlWrite s.cfg i = false) ∧ s.ph = .idle ∧
      WrittenThrough s fun _ => some 0) ∧
    (∃ s s', Inv s ∧ step s = .next s' ∧ s.pins.rst = false ∧
      (∀ w i, Accepts s w → decode w = .ok i → rawControlWrite s.cfg i = false) ∧ s'.ph = .w4 ∧
      WrittenThrough s fun m => if m = 1 then some 5 else none) := by
  refine ⟨?_, ?_⟩
  · obtain ⟨s', h⟩ := next_of_isSome (o := step (fresh Config.vectors [present 0x50000005])) (by decide)
    refine ⟨_, s', fresh_inv _, h, rfl, fun w i hw hd => ?_, rfl, by unfold WrittenThrough; decide⟩
    obtain rfl : (0x50000005 : Word) = w := hw.2.2.2
    obtain rfl : Instr.setbri 5 = i := by
      have : decode 0x50000005 = .ok (.setbri 5) := by decide
      rw [this] at hd; cases hd; rfl
    rfl
  · obtain ⟨s, s', rfl, h, hp⟩ := mid_next (p := .w3) (k := .raw) (l := [quiet 0]) (fun t => decide (t.ph = .w4)) (by decide)
    exact ⟨_, s', mid_inv _ _ _ (by decide), h, rfl, fun w i hw => absurd hw.1.2 (by decide), by simpa using hp,
      by unfold WrittenThrough; decide⟩

end Sys2Proof.Tests
end

/-! Everything one clock edge can do, as one inductive relation with a named case per kind of edge, and what
each kind leaves unchanged. The three ingredients of a command (its checks, its update of the shadow, its cycles) stand
as functions of the command, tied to `exec` by `exec_eq_accept`. -/

namespace Sys2Proof.Machine

/-! ### A command as its checks, its update and its cycles -/

/-- The checks of a command, in the order of 60 R252. -/
def commandChecks (i : Instr) (c : Config) : List (Bool × CmdErr) :=
  match i with
  | .wrreg tgt _ _ => [(targetOk c tgt, .badTarget)]
  | .rdreg tgt _ => [(singleOk c tgt, .badTarget)]
  | .wrlog sp tgt ix _ => [(targetOk c tgt, .badTarget), (indexOk c sp ix.toNat, .badIndex)]
  | .wrpos sp pos _ => [(sp.isLocal, .illegal), (decide (pos.toNat < c.tw), .posRange)]
  | .selftest tgt _ => [(singleOk c tgt, .badTarget)]
  | .rdtest tgt => [(singleOk c tgt, .badTarget)]
  | .ldfmap k _ => [(decide (k.toNat < c.chunks), .badIndex)]
  | .setbri _ | .setflen _ | .setblen _ | .setclr _ | .flashmap => []

/-- What a command that is not rejected changes in CWG, STREQ and FMAP (10 R31, R32, R39). -/
def commandUpdate (i : Instr) (s : State) : State :=
  match i with
  | .setbri br => { s with cwg := { s.cwg with br := br } }
  | .setflen v => { s with cwg := { s.cwg with fe := v } }
  | .setblen v => { s with cwg := { s.cwg with be := v } }
  | .setclr v => { s with cwg := { s.cwg with cl := v } }
  | .selftest tgt v => { s with streq := s.streq.set (targetNumber tgt) v }
  | .ldfmap k dt => { s with fmap := loadChunk s.cfg k.toNat dt s.fmap }
  | .wrreg _ _ _ | .rdreg _ _ | .wrlog _ _ _ _ | .wrpos _ _ _ | .rdtest _ | .flashmap => s

/-- The cycles a command emits, computed from the updated state (40 R138). -/
def commandEmits (i : Instr) (s : State) : List Desc :=
  match i with
  | .wrreg tgt ad dt => expandW s.cfg ad dt tgt
  | .rdreg tgt ad => [.rd ad (targetNumber tgt) .raw]
  | .wrlog sp tgt ix dt => expandW s.cfg (regAddr s.cfg sp ix.toNat) dt tgt
  | .wrpos sp pos dt => [.wd (regAddr s.cfg sp (resolve s.cfg pos.toNat).2) dt [(resolve s.cfg pos.toNat).1]]
  | .setbri _ | .setflen _ | .setblen _ | .setclr _ => globalWrite s
  | .selftest tgt _ => [.wd (regAddr s.cfg .ctrl 0) (cwByte s (targetNumber tgt)) [targetNumber tgt]]
  | .rdtest tgt => [.rd (regAddr s.cfg .ctrl 0) (targetNumber tgt) .test]
  | .ldfmap _ _ => []
  | .flashmap => (List.range s.cfg.tw).map (flashWrite s)

/-- Every command is an acceptance with its own checks, update and cycles. -/
theorem exec_eq_accept (i : Instr) (s : State) :
    exec i s = accept (commandChecks i) (commandUpdate i) (commandEmits i) s := by
  cases i <;> rfl

/-! ### The checks and the code of R251 -/

theorem firstFailing_cons (b : Bool) (e : CmdErr) (rest : List (Bool × CmdErr)) :
    firstFailing ((b, e) :: rest) = if b = true then firstFailing rest else some e := by
  cases b <;> rfl

theorem isLocal_iff (sp : Space) : sp.isLocal = true ↔ sp = .char ∨ sp = .flash := by
  cases sp <;> decide

/-- The first failing check of a command is the code the table of 60 R251 gives it. -/
theorem firstFailing_commandChecks (i : Instr) (c : Config) :
    firstFailing (commandChecks i c) =
      if rejectionCode c i = .none then none else some (rejectionCode c i) := by
  cases i with
  | wrreg tgt | rdreg tgt | selftest tgt | rdtest tgt =>
    cases tgt <;>
      simp only [commandChecks, firstFailing_cons, firstFailing, rejectionCode, targetOk, singleOk, decide_eq_true_eq]
    all_goals split_ifs <;> simp_all
  | wrlog sp tgt =>
    cases tgt <;>
      simp only [commandChecks, firstFailing_cons, firstFailing, rejectionCode, targetOk, decide_eq_true_eq]
    all_goals split_ifs <;> simp_all
  | wrpos sp pos =>
    simp only [commandChecks, firstFailing_cons, firstFailing, rejectionCode, isLocal_iff, decide_eq_true_eq]
    split_ifs <;> simp_all
  | ldfmap k =>
    by_cases hk : k.toNat < (c.tw + 7) / 8 <;>
      simp [commandChecks, firstFailing_cons, firstFailing, rejectionCode, Config.chunks, hk]
  | setbri | setflen | setblen | setclr | flashmap => rfl

/-! ### What the update of a command leaves -/

@[simp] theorem commandUpdate_cfg (i : Instr) (s : State) : (commandUpdate i s).cfg = s.cfg := by cases i <;> rfl
@[simp] theorem commandUpdate_errSeen (i : Instr) (s : State) : (commandUpdate i s).errSeen = s.errSeen := by cases i <;> rfl
@[simp] theorem commandUpdate_lastErr (i : Instr) (s : State) : (commandUpdate i s).lastErr = s.lastErr := by cases i <;> rfl
@[simp] theorem commandUpdate_tr (i : Instr) (s : State) : (commandUpdate i s).tr = s.tr := by cases i <;> rfl
@[simp] theorem commandUpdate_rdata (i : Instr) (s : State) : (commandUpdate i s).rdata = s.rdata := by cases i <;> rfl
@[simp] theorem commandUpdate_aOut (i : Instr) (s : State) : (commandUpdate i s).aOut = s.aOut := by cases i <;> rfl
@[simp] theorem commandUpdate_dOut (i : Instr) (s : State) : (commandUpdate i s).dOut = s.dOut := by cases i <;> rfl
@[simp] theorem commandUpdate_dOe (i : Instr) (s : State) : (commandUpdate i s).dOe = s.dOe := by cases i <;> rfl
@[simp] theorem commandUpdate_ceN (i : Instr) (s : State) : (commandUpdate i s).ceN = s.ceN := by cases i <;> rfl
@[simp] theorem commandUpdate_wrN (i : Instr) (s : State) : (commandUpdate i s).wrN = s.wrN := by cases i <;> rfl
@[simp] theorem commandUpdate_rdN (i : Instr) (s : State) : (commandUpdate i s).rdN = s.rdN := by cases i <;> rfl
@[simp] theorem commandUpdate_ph (i : Instr) (s : State) : (commandUpdate i s).ph = s.ph := by cases i <;> rfl

/-! ### Which commands emit a cycle -/

theorem allMods_ne_nil {c : Config} (h : c.ok = true) : allMods c ≠ [] := by
  obtain ⟨hn, -⟩ := Config.ok_sizes h
  simp only [allMods, ne_eq, List.range_eq_nil]
  omega

theorem expandW_ne_nil {c : Config} (h : c.ok = true) (a v : Byte) (tgt : Target) : expandW c a v tgt ≠ [] := by
  cases tgt with
  | one m => exact List.cons_ne_nil _ _
  | all =>
    cases hb : c.bcast <;> simp [expandW, hb, allMods_ne_nil h]

theorem globalWrite_ne_nil {s : State} (h : s.cfg.ok = true) : globalWrite s ≠ [] := by
  unfold globalWrite
  split
  · exact expandW_ne_nil h _ _ _
  · simpa using allMods_ne_nil h

theorem tw_pos {c : Config} (h : c.ok = true) : 0 < c.tw := by
  obtain ⟨hn, -, hw, -⟩ := Config.ok_sizes h
  exact Nat.mul_pos hn hw

/-- LDFMAP is the one command without a bus cycle (41 R179). -/
theorem commandEmits_eq_nil_iff {s : State} (h : s.cfg.ok = true) (i : Instr) :
    commandEmits i s = [] ↔ ∃ k dt, i = .ldfmap k dt := by
  cases i with
  | wrreg | wrlog => simp [commandEmits, expandW_ne_nil h]
  | setbri | setflen | setblen | setclr => simp [commandEmits, globalWrite_ne_nil h]
  | rdreg | wrpos | selftest | rdtest => simp [commandEmits]
  | ldfmap => simp [commandEmits]
  | flashmap => simpa [commandEmits] using (tw_pos h).ne'

/-! ### The state a started command leaves -/

/-- `s` after the edge that accepts the command `i` without rejecting it (40 R138). -/
def commandStart (i : Instr) (s : State) : State :=
  let s1 := commandUpdate i { s with lastErr := .none }
  startCommand (commandEmits i s1) s1

@[simp] theorem startCommand_cfg (l : List Desc) (s : State) : (startCommand l s).cfg = s.cfg := by cases l <;> simp
@[simp] theorem startCommand_errSeen (l : List Desc) (s : State) : (startCommand l s).errSeen = s.errSeen := by cases l <;> simp
@[simp] theorem startCommand_lastErr (l : List Desc) (s : State) : (startCommand l s).lastErr = s.lastErr := by cases l <;> simp
@[simp] theorem startCommand_tr (l : List Desc) (s : State) : (startCommand l s).tr = s.tr := by cases l <;> simp
@[simp] theorem startCommand_rdata (l : List Desc) (s : State) : (startCommand l s).rdata = s.rdata := by cases l <;> simp
@[simp] theorem startCommand_dOe (l : List Desc) (s : State) : (startCommand l s).dOe = s.dOe := by cases l <;> simp
@[simp] theorem startCommand_ceN (l : List Desc) (s : State) : (startCommand l s).ceN = s.ceN := by cases l <;> simp
@[simp] theorem startCommand_wrN (l : List Desc) (s : State) : (startCommand l s).wrN = s.wrN := by cases l <;> simp
@[simp] theorem startCommand_rdN (l : List Desc) (s : State) : (startCommand l s).rdN = s.rdN := by cases l <;> simp

@[simp] theorem commandStart_cfg (i : Instr) (s : State) : (commandStart i s).cfg = s.cfg := by simp [commandStart]
@[simp] theorem commandStart_errSeen (i : Instr) (s : State) : (commandStart i s).errSeen = s.errSeen := by simp [commandStart]
@[simp] theorem commandStart_lastErr (i : Instr) (s : State) : (commandStart i s).lastErr = .none := by simp [commandStart]
@[simp] theorem commandStart_tr (i : Instr) (s : State) : (commandStart i s).tr = s.tr := by simp [commandStart]
@[simp] theorem commandStart_rdata (i : Instr) (s : State) : (commandStart i s).rdata = s.rdata := by simp [commandStart]
@[simp] theorem commandStart_dOe (i : Instr) (s : State) : (commandStart i s).dOe = s.dOe := by simp [commandStart]
@[simp] theorem commandStart_ceN (i : Instr) (s : State) : (commandStart i s).ceN = s.ceN := by simp [commandStart]
@[simp] theorem commandStart_wrN (i : Instr) (s : State) : (commandStart i s).wrN = s.wrN := by simp [commandStart]
@[simp] theorem commandStart_rdN (i : Instr) (s : State) : (commandStart i s).rdN = s.rdN := by simp [commandStart]

/-- A started command is LDFMAP and starts no cycle, or its first cycle is in its first step. -/
theorem commandStart_cases (i : Instr) {s : State} (hok : s.cfg.ok = true) :
    let s1 := commandUpdate i { s with lastErr := .none }
    ((∃ k dt, i = .ldfmap k dt) ∧ commandStart i s = s1) ∨
    ((∀ k dt, i ≠ .ldfmap k dt) ∧ ∃ d q, commandEmits i s1 = d :: q ∧
      commandStart i s = startCycle d { s1 with cq := q }) := by
  intro s1
  have hnil : commandEmits i s1 = [] ↔ ∃ k dt, i = .ldfmap k dt :=
    commandEmits_eq_nil_iff (by simpa [s1] using hok) i
  have hstart : commandStart i s = startCommand (commandEmits i s1) s1 := rfl
  cases hl : commandEmits i s1 with
  | nil => exact .inl ⟨hnil.1 hl, by rw [hstart, hl, startCommand_nil]⟩
  | cons d q =>
    refine .inr ⟨fun k dt hi => ?_, d, q, rfl, by rw [hstart, hl, startCommand_cons]⟩
    exact absurd (hl.symm.trans (hnil.2 ⟨k, dt, hi⟩)) (List.cons_ne_nil _ _)

/-- What a command does at a ready port: the rejection with its code, or its start. -/
theorem exec_ready (i : Instr) {s : State} (h : Ready s) :
    exec i s = .next (if rejectionCode s.cfg i = .none then commandStart i s
      else raiseCmdError (rejectionCode s.cfg i) s) := by
  rw [exec_eq_accept]
  have hf := firstFailing_commandChecks i s.cfg
  split <;> rename_i hc
  · exact accept_runs _ _ h (by rw [hf, if_pos hc])
  · exact accept_rejects _ _ h (by rw [hf, if_neg hc])

/-! ### The kinds of edge -/

section
variable {s : State} {w : Word}

theorem Accepts.config (h : Accepts s w) : s.cfg.ok = true := h.1.1
theorem Accepts.idle (h : Accepts s w) : s.ph = .idle := h.1.2
theorem Accepts.not_reset (h : Accepts s w) : s.pins.rst = false := h.2.1
theorem Accepts.valid (h : Accepts s w) : s.pins.cmdValid = true := h.2.2.1
theorem Accepts.word (h : Accepts s w) : s.pins.cmd = w := h.2.2.2

end

/-- The code an accepted word is rejected with, NONE if it is not (30 R98, R99, 60 R251). -/
def wordCode (c : Config) (w : Word) : CmdErr :=
  match decode w with
  | .ok i => rejectionCode c i
  | .error _ => .illegal

theorem wordCode_of_ok {c : Config} {w : Word} {i : Instr} (h : decode w = .ok i) :
    wordCode c w = rejectionCode c i := by
  simp [wordCode, h]

theorem wordCode_of_error {c : Config} {w : Word} {r : Illegal} (h : decode w = .error r) :
    wordCode c w = .illegal := by
  simp [wordCode, h]

/-- The kinds of edge, with the state each leaves (40 R137, R138, 60 R250, 70 R280). -/
inductive Edge (s : State) : State → Prop where
  /-- A reset edge. -/
  | reset (hrst : s.pins.rst = true) : Edge s (resetEdge s.tick)
  /-- The port is ready and no word is presented. -/
  | silent (hrst : s.pins.rst = false) (hidle : s.ph = .idle) (hvalid : s.pins.cmdValid = false) : Edge s s.tick
  /-- A word is accepted and rejected. -/
  | rejects (hacc : Accepts s s.pins.cmd) (hcode : wordCode s.cfg s.pins.cmd ≠ .none) :
      Edge s (raiseCmdError (wordCode s.cfg s.pins.cmd) s.tick)
  /-- A command is accepted and starts. -/
  | starts (i : Instr) (hacc : Accepts s s.pins.cmd) (hdec : decode s.pins.cmd = .ok i)
      (hcode : rejectionCode s.cfg i = .none) : Edge s (commandStart i s.tick)
  /-- A dwell with more than one edge left counts down. -/
  | counts (d : Desc) (hrst : s.pins.rst = false) (hstep : d.hasStep s.ph = true) (hcur : s.cur = some d)
      (hcnt : 1 < s.cnt) : Edge s { s.tick with cnt := s.cnt - 1 }
  /-- A dwell elapses and the next step of the cycle is entered. -/
  | enters (d : Desc) (p : Phase) (hrst : s.pins.rst = false) (hstep : d.hasStep s.ph = true) (hcur : s.cur = some d)
      (hcnt : s.cnt ≤ 1) (hnext : s.ph.next? = some p) : Edge s (enterStep s.pins.dIn d p s.tick)
  /-- The last dwell of a cycle elapses and the next cycle starts. -/
  | continues (d d' : Desc) (q : List Desc) (hrst : s.pins.rst = false) (hstep : d.hasStep s.ph = true)
      (hcur : s.cur = some d) (hcnt : s.cnt ≤ 1) (hlast : s.ph.next? = none) (hcq : s.cq = d' :: q) :
      Edge s (startCycle d' { s.tick with cq := q })
  /-- The last dwell of the last cycle elapses. -/
  | finishes (d : Desc) (hrst : s.pins.rst = false) (hstep : d.hasStep s.ph = true) (hcur : s.cur = some d)
      (hcnt : s.cnt ≤ 1) (hlast : s.ph.next? = none) (hcq : s.cq = []) : Edge s (finish s.tick)

/-- Every step is one of the kinds of edge. -/
theorem edge_of_step {s s' : State} (h : step s = .next s') : Edge s s' := by
  obtain ⟨hok, ⟨hr, rfl⟩ | ⟨hr, hi, hv, rfl⟩ | ⟨hr, hi, hv, r, hd, rfl⟩ | ⟨hr, hi, hv, i, hd, hx⟩ | ⟨hr, -, ha⟩⟩ :=
    step_cases h
  · exact .reset hr
  · exact .silent hr hi hv
  · have hcode := wordCode_of_error (c := s.cfg) hd
    exact hcode ▸ .rejects ⟨⟨hok, hi⟩, hr, hv, rfl⟩ (by rw [hcode]; decide)
  · have hcode := wordCode_of_ok (c := s.cfg) hd
    rw [exec_ready i ⟨by simpa using hok, by simpa using hi⟩, State.tick_cfg] at hx
    split at hx <;> rename_i hc <;> cases hx
    · exact .starts i ⟨⟨hok, hi⟩, hr, hv, rfl⟩ hd hc
    · exact hcode ▸ .rejects ⟨⟨hok, hi⟩, hr, hv, rfl⟩ (by rwa [hcode])
  · obtain ⟨d, hcur, hs, ⟨hc, rfl⟩ | ⟨hc, p, hp, rfl⟩ | ⟨hc, hp, d', q, hq, rfl⟩ | ⟨hc, hp, hq, rfl⟩⟩ :=
      advance_cases ha
    all_goals simp only [State.tick_cur, State.tick_ph, State.tick_cnt] at hcur hs hc
    · rw [State.tick_cnt]
      exact .counts d hr hs hcur hc
    · exact .enters d p hr hs hcur hc (by simpa using hp)
    · exact .continues d d' q hr hs hcur hc (by simpa using hp) (by simpa using hq)
    · exact .finishes d hr hs hcur hc (by simpa using hp) (by simpa using hq)

theorem step_of_reset {s s' : State} (h : step s = .next s') (hrst : s.pins.rst = true) : s' = resetEdge s.tick := by
  cases edge_of_step h with
  | reset => rfl
  | rejects ha | starts _ ha => simp [ha.not_reset] at hrst
  | silent hr | counts _ hr | enters _ _ hr | continues _ _ _ hr | finishes _ hr => simp [hr] at hrst

/-! ### The order of the phases -/

theorem next?_ne_self {p q : Phase} (h : p.next? = some q) : p ≠ q := by
  cases p <;> cases h <;> decide

theorem next?_ne_idle {p q : Phase} (h : p.next? = some q) : q ≠ .idle := by
  cases p <;> cases h <;> decide

/-- The busy phases with no next step are the last of a cycle: W5 and R8. -/
theorem next?_eq_none_iff {p : Phase} (hp : p ≠ .idle) : p.next? = none ↔ p = .w5 ∨ p = .r8 := by
  cases p <;> simp_all [Phase.next?]

/-- The sample step R5 is entered from R4 alone. -/
theorem next?_eq_r5 {p : Phase} (h : p.next? = some .r5) : p = .r4 := by
  cases p <;> simp_all [Phase.next?]

theorem first_ne_idle (d : Desc) : d.first ≠ .idle := by
  cases d <;> simp [Desc.first]

theorem first_eq_w1_or_r1 (d : Desc) : d.first = .w1 ∨ d.first = .r1 := by
  cases d <;> simp [Desc.first]

/-- The last step of a cycle is not the first of one. -/
theorem last_ne_first {p : Phase} (hp : p ≠ .idle) (h : p.next? = none) (d : Desc) : p ≠ d.first := by
  obtain rfl | rfl := (next?_eq_none_iff hp).1 h <;> cases d <;> simp [Desc.first]

end Sys2Proof.Machine

/-! The STATUS items: ERRSEEN, LASTERR, BUSY, and the sampled RDATA and TR (10 R24 to R29). -/

namespace Sys2Proof.Machine

/-! ### LASTERR (10 R26) -/

theorem lastErr_of_accepts {s s' : State} {w : Word} (h : step s = .next s') (ha : Accepts s w) :
    s'.lastErr = wordCode s.cfg w := by
  obtain ⟨⟨-, hidle⟩, hrst, hvalid, rfl⟩ := ha
  cases edge_of_step h with
  | reset hr => simp [hr] at hrst
  | silent _ _ hv => simp [hv] at hvalid
  | rejects => rfl
  | starts i _ hdec hcode => simp [wordCode_of_ok hdec, hcode]
  | counts d _ hs | enters d _ _ hs | continues d _ _ _ hs | finishes d _ hs =>
    exact absurd hidle (hasStep_ne_idle hs)

theorem lastErr_of_not_accepts {s s' : State} (h : step s = .next s') (hrst : s.pins.rst = false)
    (hna : ∀ w, ¬ Accepts s w) : s'.lastErr = s.lastErr := by
  cases edge_of_step h with
  | reset hr => simp [hr] at hrst
  | rejects ha | starts _ ha => exact absurd ha (hna _)
  | silent | counts | enters | continues | finishes => simp

/-- The codes 5 to 7 do not occur (93 I8). -/
theorem code_le_four (e : CmdErr) : e.code.toNat ≤ 4 := by
  cases e <;> decide

/-- Settles O47: an accepting edge leaves the code of its word, every other kind of edge leaves LASTERR or resets it. -/
theorem lastErrIsWrittenAtEveryAcceptance : Obligations.LastErrIsWrittenAtEveryAcceptance := fun _ s' h =>
  ⟨fun hr => by rw [step_of_reset h hr, resetEdge_lastErr],
    fun _ _ ha hd => (lastErr_of_accepts h ha).trans (wordCode_of_ok hd),
    fun _ _ ha hd => (lastErr_of_accepts h ha).trans (wordCode_of_error hd),
    lastErr_of_not_accepts h, code_le_four s'.lastErr, rfl, rfl⟩

/-! ### ERRSEEN (10 R25) -/

/-- Without a reset ERRSEEN is set after an edge exactly if it was set before, or the edge rejects a word. -/
theorem errSeen_iff {s s' : State} (h : step s = .next s') (hrst : s.pins.rst = false) :
    s'.errSeen = true ↔ s.errSeen = true ∨ ∃ w, Accepts s w ∧ wordCode s.cfg w ≠ .none := by
  have not_rejected : (∀ w, Accepts s w → wordCode s.cfg w = .none) → s'.errSeen = s.errSeen →
      (s'.errSeen = true ↔ s.errSeen = true ∨ ∃ w, Accepts s w ∧ wordCode s.cfg w ≠ .none) := by
    intro hnone heq
    rw [heq]
    exact ⟨.inl, fun hor => hor.elim id fun ⟨w, ha, hc⟩ => absurd (hnone w ha) hc⟩
  cases edge_of_step h with
  | reset hr => simp [hr] at hrst
  | silent _ _ hv => exact not_rejected (fun w ha => by simp [ha.valid] at hv) (by simp)
  | rejects ha hc => exact ⟨fun _ => .inr ⟨_, ha, hc⟩, fun _ => rfl⟩
  | starts i _ hdec hcode =>
    exact not_rejected (fun w ha => by rw [← ha.word, wordCode_of_ok hdec, hcode]) (by simp)
  | counts d _ hs | enters d _ _ hs | continues d _ _ _ hs | finishes d _ hs =>
    exact not_rejected (fun w ha => absurd ha.idle (hasStep_ne_idle hs)) (by simp)

/-- Settles O34: LASTERR after an accepting edge is the code of the word (`lastErr_of_accepts`), so an edge that leaves
it other than NONE is one that rejects. -/
theorem errSeenIsStickyUntilReset : Obligations.ErrSeenIsStickyUntilReset := by
  intro s s' h
  refine ⟨fun hr => by rw [step_of_reset h hr, resetEdge_errSeen], fun hr hset => (errSeen_iff h hr).2 (.inl hset),
    fun w ha hne => ?_, fun hr hclear hset => ?_, rfl⟩
  · exact (errSeen_iff h ha.not_reset).2 (.inr ⟨w, ha, lastErr_of_accepts h ha ▸ hne⟩)
  · obtain hs | ⟨w, ha, hc⟩ := (errSeen_iff h hr).1 hset
    · simp [hclear] at hs
    · exact ⟨w, ha, (lastErr_of_accepts h ha).symm ▸ hc⟩

/-! ### RDATA and TR (10 R27, R29) -/

/-- No step of a cycle but R5 writes RDATA or TR. -/
theorem performStep_sampled (b : Byte) (d : Desc) {p : Phase} (hp : p ≠ .r5) (s : State) :
    (performStep b d p s).rdata = s.rdata ∧ (performStep b d p s).tr = s.tr := by
  cases d <;> cases p <;> simp_all [performStep]

theorem enterStep_r5_rd (b a : Byte) (m : Nat) (k : ReadKind) (s : State) :
    (enterStep b (.rd a m k) .r5 s).rdata = b ∧
      (enterStep b (.rd a m k) .r5 s).tr = (sample k b s).tr := by
  simp [enterStep, performStep]

theorem hasStep_r4 {d : Desc} (h : d.hasStep .r4 = true) : ∃ a m k, d = .rd a m k := by
  cases d with
  | wd => cases h
  | rd a m k => exact ⟨a, m, k, rfl⟩

/-- The edge from R4 to R5 enters R5 in a read cycle. -/
theorem sample_edge {s s' : State} (h : step s = .next s') (hrst : s.pins.rst = false) (hp : s.ph = .r4)
    (hp' : s'.ph = .r5) : ∃ a m k, s.cur = some (.rd a m k) ∧ s' = enterStep s.pins.dIn (.rd a m k) .r5 s.tick := by
  cases edge_of_step h with
  | reset hr => simp [hr] at hrst
  | silent _ hi => simp [hp] at hi
  | rejects ha | starts _ ha => simp [ha.idle] at hp
  | counts => simp [hp] at hp'
  | enters d p _ hs hcur =>
    obtain ⟨a, m, k, rfl⟩ := hasStep_r4 (hp ▸ hs)
    obtain rfl : p = .r5 := hp'
    exact ⟨a, m, k, hcur, rfl⟩
  | continues _ _ _ _ _ _ _ hl | finishes _ _ _ _ _ hl => simp [hp, Phase.next?] at hl

theorem sampled_of_not_sample_edge {s s' : State} (h : step s = .next s') (hrst : s.pins.rst = false)
    (hn : ¬ (s.ph = .r4 ∧ s'.ph = .r5)) : s'.rdata = s.rdata ∧ s'.tr = s.tr := by
  cases edge_of_step h with
  | reset hr => simp [hr] at hrst
  | enters d p _ _ _ _ hnext =>
    have hp : p ≠ .r5 := fun hp => hn ⟨next?_eq_r5 (hp ▸ hnext), hp⟩
    simpa [enterStep] using performStep_sampled s.pins.dIn d hp s.tick
  | silent | rejects | starts | counts | continues | finishes => simp

/-- Settles O46: the edge from R4 to R5 can only be the sample step of the read cycle in CUR, and no other step samples. -/
theorem sampleStepAloneWritesRdataAndTr : Obligations.SampleStepAloneWritesRdataAndTr := by
  intro s s' h
  refine ⟨fun hr => by rw [step_of_reset h hr]; exact ⟨rfl, rfl⟩, fun hr hp hp' => ?_, sampled_of_not_sample_edge h⟩
  obtain ⟨a, m, k, hcur, rfl⟩ := sample_edge h hr hp hp'
  obtain ⟨hrdata, htr⟩ := enterStep_r5_rd s.pins.dIn a m k s.tick
  refine ⟨hrdata, fun a' m' hc => ?_, fun a' m' hc => ?_⟩
  · cases hcur.symm.trans hc
    simp [htr]
  · cases hcur.symm.trans hc
    simp [htr]

/-! ### BUSY (10 R24) -/

theorem busy_iff (s : State) : s.busy = true ↔ s.ph ≠ .idle := by
  simp [State.busy]

theorem not_busy_iff (s : State) : s.busy = false ↔ s.ph = .idle := by
  simp [State.busy]

/-- From IDLE, PH leaves IDLE exactly at the acceptance of a command that is neither rejected nor LDFMAP. -/
theorem rises_iff {s s' : State} (h : step s = .next s') (hidle : s.ph = .idle) :
    s'.ph ≠ .idle ↔
      ∃ w i, Accepts s w ∧ decode w = .ok i ∧ rejectionCode s.cfg i = .none ∧ ∀ k dt, i ≠ .ldfmap k dt := by
  cases edge_of_step h with
  | reset hr => simp [hr]
  | silent _ _ hv => simp [hidle, hv]
  | rejects _ hc =>
    refine iff_of_false (by simp [hidle]) ?_
    rintro ⟨w, i, ha, hd, hnone, -⟩
    rw [ha.word, wordCode_of_ok hd] at hc
    exact hc hnone
  | starts i ha hd hc =>
    obtain ⟨⟨k, dt, rfl⟩, heq⟩ | ⟨hne, d, q, -, heq⟩ := commandStart_cases i (s := s.tick) (by simpa using ha.config)
    · refine iff_of_false (by simp [heq, hidle]) ?_
      rintro ⟨w, i, ha', hd', -, hne⟩
      rw [← ha'.word, hd] at hd'
      cases hd'
      exact hne k dt rfl
    · exact iff_of_true (by simpa [heq] using first_ne_idle d) ⟨_, i, ha, hd, hc, hne⟩
  | counts d _ hs | enters d _ _ hs | continues d _ _ _ hs | finishes d _ hs =>
    exact absurd hidle (hasStep_ne_idle hs)

/-- A busy block falls to IDLE exactly at a reset and at the last edge of its last cycle. -/
theorem falls_iff {s s' : State} (hinv : SeqInv s) (h : step s = .next s') (hbusy : s.ph ≠ .idle) :
    s'.ph = .idle ↔ s.pins.rst = true ∨ (s.cnt = 1 ∧ s.cq = [] ∧ (s.ph = .w5 ∨ s.ph = .r8)) := by
  rw [← next?_eq_none_iff hbusy]
  cases edge_of_step h with
  | reset hr => simp [hr]
  | silent _ hi => exact absurd hi hbusy
  | rejects ha | starts _ ha => exact absurd ha.idle hbusy
  | counts _ hr _ _ hcnt =>
    refine iff_of_false (by simpa using hbusy) ?_
    rintro (hr' | ⟨hone, -⟩)
    · simp [hr] at hr'
    · omega
  | enters _ p hr _ _ _ hnext =>
    exact iff_of_false (next?_ne_idle hnext) (by simp [hr, hnext])
  | continues _ d' _ hr _ _ _ _ hcq =>
    exact iff_of_false (first_ne_idle d') (by simp [hr, hcq])
  | finishes _ _ _ _ hcnt hlast hcq =>
    have hone : s.cnt = 1 := le_antisymm hcnt (hinv.busy_count hbusy).1
    exact iff_of_true rfl (.inr ⟨hone, hcq, hlast⟩)

/-- Settles O48: from IDLE only a started command that emits a cycle leaves IDLE (`rises_iff`); the invariant's count of
at least 1 makes the falling edge the one with exactly 1 left (`falls_iff`). -/
theorem busyRisesAtAcceptanceAndFallsAtTheLastDwell :
    Obligations.BusyRisesAtAcceptanceAndFallsAtTheLastDwell := by
  refine ⟨fun s s' hinv h => ⟨busy_iff s', fun hb => ?_, fun hb => ?_⟩, rfl⟩
  · exact (busy_iff s').trans (rises_iff h ((not_busy_iff s).1 hb))
  · exact (not_busy_iff s').trans (falls_iff hinv.seq h ((busy_iff s).1 hb))

end Sys2Proof.Machine

/-! The registered bus outputs A_OUT, D_OUT, D_OE, CE_N, WR_N and RD_N: the steps that write each, and what D_OE
and the width of CE_N are in every state the block reaches (10 R34 to R37). -/

namespace Sys2Proof.Machine

/-! ### The step of a cycle that writes each register -/

section
variable {b : Byte} {d : Desc} {p : Phase} {s : State}

theorem performStep_aOut_ne (h : (performStep b d p s).aOut ≠ s.aOut) : p = .w1 ∨ p = .r1 := by
  cases d <;> cases p <;> simp_all [performStep]

theorem performStep_dOut_ne (h : (performStep b d p s).dOut ≠ s.dOut) : p = .w1 := by
  cases d <;> cases p <;> simp_all [performStep]

theorem performStep_dOe_ne (h : (performStep b d p s).dOe ≠ s.dOe) :
    (p = .r2 ∧ (performStep b d p s).dOe = false) ∨ (p = .r8 ∧ (performStep b d p s).dOe = true) := by
  cases d <;> cases p <;> simp_all [performStep]

theorem performStep_ceN_ne (h : (performStep b d p s).ceN ≠ s.ceN) : p = .w2 ∨ p = .w5 ∨ p = .r3 ∨ p = .r7 := by
  cases d <;> cases p <;> simp_all [performStep]

theorem performStep_wrN_ne (h : (performStep b d p s).wrN ≠ s.wrN) :
    (p = .w3 ∧ (performStep b d p s).wrN = false) ∨ (p = .w4 ∧ (performStep b d p s).wrN = true) := by
  cases d <;> cases p <;> simp_all [performStep]

theorem performStep_rdN_ne (h : (performStep b d p s).rdN ≠ s.rdN) :
    (p = .r4 ∧ (performStep b d p s).rdN = false) ∨ (p = .r6 ∧ (performStep b d p s).rdN = true) := by
  cases d <;> cases p <;> simp_all [performStep]

theorem performStep_ceN_length (h : s.ceN.length = s.cfg.nmod) : (performStep b d p s).ceN.length = s.cfg.nmod := by
  cases d <;> cases p <;> simp_all [performStep]

end

/-- What an edge without a reset does on the bus: nothing; the first step of a cycle, which drives the address and, in a
write, the data; or the action of a later step. -/
inductive BusEdge (s : State) : State → Prop where
  /-- No bus register changes. -/
  | same {s' : State} (haddr : s'.aOut = s.aOut) (hdata : s'.dOut = s.dOut) (hoe : s'.dOe = s.dOe)
      (hce : s'.ceN = s.ceN) (hwr : s'.wrN = s.wrN) (hrd : s'.rdN = s.rdN) : BusEdge s s'
  /-- W1 or R1: the first step of the cycle of `d` (40 R131, R134). -/
  | first {s' : State} (d : Desc) (hph : s.ph ≠ s'.ph) (hph' : s'.ph = d.first)
      (hdata : s'.dOut = s.dOut ∨ d.first = .w1) (hoe : s'.dOe = s.dOe)
      (hce : s'.ceN = s.ceN) (hwr : s'.wrN = s.wrN) (hrd : s'.rdN = s.rdN) : BusEdge s s'
  /-- The step after the present one in the cycle of `d`. -/
  | later (d : Desc) (p : Phase) (hnext : s.ph.next? = some p) : BusEdge s (enterStep s.pins.dIn d p s.tick)

theorem startCycle_dOut (d : Desc) (s : State) : (startCycle d s).dOut = s.dOut ∨ d.first = .w1 := by
  cases d <;> simp [Desc.first]

theorem busEdge_of_step {s s' : State} (h : step s = .next s') (hrst : s.pins.rst = false) : BusEdge s s' := by
  cases edge_of_step h with
  | reset hr => simp [hr] at hrst
  | silent | rejects | counts | finishes => constructor <;> simp
  | starts i ha =>
    obtain ⟨-, heq⟩ | ⟨-, d, q, -, heq⟩ := commandStart_cases i (s := s.tick) (by simpa using ha.config) <;> rw [heq]
    · exact .same (by simp) (by simp) (by simp) (by simp) (by simp) (by simp)
    · refine .first d ?_ rfl ?_ (by simp) (by simp) (by simp) (by simp)
      · simpa [ha.idle] using (first_ne_idle d).symm
      · simpa using startCycle_dOut d _
  | enters d p _ _ _ _ hnext => exact .later d p hnext
  | continues _ d' q _ hs _ _ hlast =>
    refine .first d' (last_ne_first (hasStep_ne_idle hs) hlast d') rfl ?_ (by simp) (by simp) (by simp) (by simp)
    simpa using startCycle_dOut d' { s.tick with cq := q }

section
variable {s s' : State}

theorem aOut_ne (he : BusEdge s s') (h : s'.aOut ≠ s.aOut) : s.ph ≠ s'.ph ∧ (s'.ph = .w1 ∨ s'.ph = .r1) := by
  cases he with
  | same haddr => exact absurd haddr h
  | first d hph hph' => exact ⟨hph, hph' ▸ first_eq_w1_or_r1 d⟩
  | later d p hnext =>
    exact ⟨next?_ne_self hnext, performStep_aOut_ne (s := s.tick) (by simpa [enterStep] using h)⟩

theorem dOut_ne (he : BusEdge s s') (h : s'.dOut ≠ s.dOut) : s.ph ≠ s'.ph ∧ s'.ph = .w1 := by
  cases he with
  | same _ hdata => exact absurd hdata h
  | first d hph hph' hdata => exact ⟨hph, hph'.trans (hdata.resolve_left h)⟩
  | later d p hnext =>
    exact ⟨next?_ne_self hnext, performStep_dOut_ne (s := s.tick) (by simpa [enterStep] using h)⟩

theorem dOe_ne (he : BusEdge s s') (h : s'.dOe ≠ s.dOe) :
    s.ph ≠ s'.ph ∧ ((s'.ph = .r2 ∧ s'.dOe = false) ∨ (s'.ph = .r8 ∧ s'.dOe = true)) := by
  cases he with
  | same _ _ hoe | first _ _ _ _ hoe => exact absurd hoe h
  | later d p hnext =>
    exact ⟨next?_ne_self hnext, performStep_dOe_ne (s := s.tick) (by simpa [enterStep] using h)⟩

theorem ceN_ne (he : BusEdge s s') (h : s'.ceN ≠ s.ceN) :
    s.ph ≠ s'.ph ∧ (s'.ph = .w2 ∨ s'.ph = .w5 ∨ s'.ph = .r3 ∨ s'.ph = .r7) := by
  cases he with
  | same _ _ _ hce | first _ _ _ _ _ hce => exact absurd hce h
  | later d p hnext =>
    exact ⟨next?_ne_self hnext, performStep_ceN_ne (s := s.tick) (by simpa [enterStep] using h)⟩

theorem wrN_ne (he : BusEdge s s') (h : s'.wrN ≠ s.wrN) :
    s.ph ≠ s'.ph ∧ ((s'.ph = .w3 ∧ s'.wrN = false) ∨ (s'.ph = .w4 ∧ s'.wrN = true)) := by
  cases he with
  | same _ _ _ _ hwr | first _ _ _ _ _ _ hwr => exact absurd hwr h
  | later d p hnext =>
    exact ⟨next?_ne_self hnext, performStep_wrN_ne (s := s.tick) (by simpa [enterStep] using h)⟩

theorem rdN_ne (he : BusEdge s s') (h : s'.rdN ≠ s.rdN) :
    s.ph ≠ s'.ph ∧ ((s'.ph = .r4 ∧ s'.rdN = false) ∨ (s'.ph = .r6 ∧ s'.rdN = true)) := by
  cases he with
  | same _ _ _ _ _ hrd | first _ _ _ _ _ _ _ hrd => exact absurd hrd h
  | later d p hnext =>
    exact ⟨next?_ne_self hnext, performStep_rdN_ne (s := s.tick) (by simpa [enterStep] using h)⟩

end

/-! ### The direction of the data pins and the width of CE_N -/

theorem not_turnsRound_of_idle_or_write {p : Phase} (h : p = .idle ∨ p.isWrite = true) : p.turnsRound = false := by
  cases p <;> simp_all [Phase.isWrite, Phase.turnsRound]

theorem performStep_wd_dOe (b a v : Byte) (mods : List Nat) (p : Phase) (s : State) :
    (performStep b (.wd a v mods) p s).dOe = s.dOe := by
  cases p <;> rfl

/-- A later step of a cycle keeps D_OE low exactly from R2 to R7. -/
theorem enterStep_direction {b : Byte} {d : Desc} {p : Phase} {s : State} (hs : d.hasStep s.ph = true)
    (hnext : s.ph.next? = some p) (hdir : s.dOe = false ↔ s.ph.turnsRound = true) :
    (enterStep b d p s).dOe = false ↔ p.turnsRound = true := by
  cases d with
  | wd a v mods =>
    have hp : p.isWrite = true := hasStep_next hs hnext
    rw [not_turnsRound_of_idle_or_write (.inr hs)] at hdir
    simpa [enterStep, performStep_wd_dOe, not_turnsRound_of_idle_or_write (.inr hp)] using hdir
  | rd a m k =>
    cases hph : s.ph <;> rw [hph] at hs hnext hdir <;> cases hnext <;>
      simp_all [enterStep, performStep, Phase.turnsRound, Desc.hasStep, Phase.isRead]

@[simp] theorem turnsRound_idle : Phase.idle.turnsRound = false := rfl

@[simp] theorem turnsRound_first (d : Desc) : d.first.turnsRound = false := by cases d <;> rfl

theorem turnsRound_last {p : Phase} (h : p.next? = none) : p.turnsRound = false := by
  cases p <;> simp_all [Phase.next?, Phase.turnsRound]

/-- Every edge keeps D_OE low exactly from R2 to R7 (10 R35). -/
theorem step_direction {s s' : State} (h : step s = .next s') (hdir : s.dOe = false ↔ s.ph.turnsRound = true) :
    s'.dOe = false ↔ s'.ph.turnsRound = true := by
  cases edge_of_step h with
  | reset => exact iff_of_false (by simp) (by simp)
  | silent | rejects | counts => simpa using hdir
  | starts i ha =>
    obtain ⟨-, heq⟩ | ⟨-, d, q, -, heq⟩ := commandStart_cases i (s := s.tick) (by simpa using ha.config) <;> rw [heq]
    · simpa using hdir
    · simpa [ha.idle] using hdir
  | enters d p _ hs _ _ hnext =>
    exact enterStep_direction (by simpa using hs) (by simpa using hnext) (by simpa using hdir)
  | continues _ d' _ _ _ _ _ hlast => simpa [turnsRound_last hlast] using hdir
  | finishes _ _ _ _ _ hlast => simpa [turnsRound_last hlast] using hdir

theorem step_ceN_length {s s' : State} (h : step s = .next s') (hlen : s.ceN.length = s.cfg.nmod) :
    s'.ceN.length = s'.cfg.nmod := by
  cases edge_of_step h with
  | reset => simp
  | enters d p => simpa [enterStep] using performStep_ceN_length (s := s.tick) (by simpa using hlen)
  | silent | rejects | starts | counts | continues | finishes => simpa using hlen

/-- Settles O45: the six clauses by the kind of bus edge, the value of D_OE and the width of CE_N as invariants. -/
theorem busRegistersChangeOnlyAtTheirSteps : Obligations.BusRegistersChangeOnlyAtTheirSteps := by
  refine ⟨fun s s' hinv h hrst => ?_, fun _ => ⟨rfl, rfl, rfl, rfl, rfl, rfl⟩⟩
  have he := busEdge_of_step h hrst
  refine ⟨aOut_ne he, dOut_ne he, dOe_ne he, ceN_ne he, wrN_ne he, rdN_ne he, fun hp => ?_,
    step_ceN_length h hinv.seq.ceN_length⟩
  have hdir := step_direction h hinv.bus.direction
  simpa [not_turnsRound_of_idle_or_write hp] using hdir

end Sys2Proof.Machine

/-! The reserved OP values (30 R98): no row of the decode table takes a word with one of them, and what an accepting edge
does with a word that does not decode. -/

namespace Sys2Proof

/-! ### The OP of the words a row takes -/

theorem opField_and (w m : Word) : opField (w &&& m) = opField w &&& opField m :=
  BitVec.extractLsb'_and

/-- Every row tests all four bits of OP (30 R93). -/
theorem opField_mask_of_mem_rows : ∀ r ∈ rows, opField r.mask = 15#4 := by decide

theorem opField_eq_of_hits {r : Row} {w : Word} (hr : r ∈ rows) (h : r.hits w = true) :
    opField w = opField r.value := by
  have hand : w &&& r.mask = r.value := by simpa [Row.hits] using h
  rw [← hand, opField_and, opField_mask_of_mem_rows r hr, and_all_ones4]

/-! ### The reserved OPs (30 R98) -/

theorem mem_reservedOps {op : BitVec 4} : op ∈ reservedOps ↔ op = 0x0 ∨ op = 0xD ∨ op = 0xE ∨ op = 0xF := by
  simp [reservedOps]

theorem opField_value_not_reserved : ∀ r ∈ rows, opField r.value ∉ reservedOps := by decide

theorem decode_of_reserved {w : Word} (h : opField w ∈ reservedOps) : decode w = .error .reservedOp := by
  have hnone : (rows.findSome? fun r => if r.hits w then r.build w else none) = none := by
    refine List.findSome?_eq_none_iff.2 fun r hr => if_neg fun hhit => ?_
    exact opField_value_not_reserved r hr (opField_eq_of_hits hr hhit ▸ h)
  simp [decode, hnone, h]

end Sys2Proof

namespace Sys2Proof.Machine

/-! ### The accepting edge (40 R137, R138) -/

theorem step_of_accepts {s : State} {w : Word} (ha : Accepts s w) : step s = acceptWord w s.tick := by
  simp [step, State.cmdReady, State.busy, ha.config, ha.not_reset, ha.idle, ha.valid, ha.word]

theorem acceptWord_of_error {w : Word} {r : Illegal} (h : decode w = .error r) (s : State) :
    acceptWord w s = .next (raiseCmdError .illegal s) := by
  simp [acceptWord, h]

/-- Settles O5: a word with a reserved OP does not decode, since every row of the table tests OP against a value that is
not reserved; the accepting edge then only raises ILLEGAL. -/
theorem reservedOpcodesAreRejectedWithIllegal : Obligations.ReservedOpcodesAreRejectedWithIllegal := by
  refine ⟨fun w s hop ha => ?_, rfl⟩
  have hdec : decode w = .error .reservedOp := decode_of_reserved (mem_reservedOps.2 hop)
  rw [step_of_accepts ha, acceptWord_of_error hdec]
  rfl

end Sys2Proof.Machine

/-! The write expansion of a target (41 R175): what `expandW` gives for one module and for all, with and without BCAST. -/

namespace Sys2Proof.Machine

/-! ### ExpandW, case by case -/

@[simp] theorem expandW_one (c : Config) (a v : Byte) (m : Fin 255) : expandW c a v (.one m) = [.wd a v [m.val]] := rfl

theorem expandW_all_of_bcast {c : Config} (h : c.bcast = true) (a v : Byte) :
    expandW c a v .all = [.wd a v (List.range c.nmod)] := if_pos h

theorem expandW_all_of_not_bcast {c : Config} (h : c.bcast = false) (a v : Byte) :
    expandW c a v .all = (List.range c.nmod).map fun m => .wd a v [m] := by
  simp [expandW, h, allMods]

/-! ### What both expansions of 0xFF have in common -/

@[simp] theorem Desc.modules_wd (a v : Byte) (mods : List Nat) : (Desc.wd a v mods).modules = mods := rfl

/-- Writes of one module each reach the modules of their list, in its order. -/
theorem flatMap_modules_singleWrites (a v : Byte) (mods : List Nat) :
    (mods.map fun m => Desc.wd a v [m]).flatMap Desc.modules = mods := by
  induction mods with
  | nil => rfl
  | cons m ms ih => simpa using ih

theorem expandW_all_modules (c : Config) (a v : Byte) :
    (expandW c a v .all).flatMap Desc.modules = List.range c.nmod := by
  cases hb : c.bcast with
  | true => simp [expandW_all_of_bcast hb]
  | false => rw [expandW_all_of_not_bcast hb, flatMap_modules_singleWrites]

/-- Every descriptor of an expansion writes the byte `v` to the address `a`, whatever the target. -/
theorem expandW_writes {c : Config} {a v : Byte} {tgt : Target} {d : Desc} (h : d ∈ expandW c a v tgt) :
    ∃ mods, d = .wd a v mods := by
  cases tgt with
  | one m => exact ⟨[m.val], List.mem_singleton.1 h⟩
  | all =>
    cases hb : c.bcast with
    | true =>
      rw [expandW_all_of_bcast hb] at h
      exact ⟨List.range c.nmod, List.mem_singleton.1 h⟩
    | false =>
      rw [expandW_all_of_not_bcast hb] at h
      obtain ⟨m, -, rfl⟩ := List.mem_map.1 h
      exact ⟨[m], rfl⟩

/-- Settles O36: the three cases of the expansion, and for 0xFF with and without BCAST the modules reached and the write
they receive. -/
theorem writeExpansionGivesEveryTargetItsWrites : Obligations.WriteExpansionGivesEveryTargetItsWrites :=
  fun c a v => ⟨fun m _ => expandW_one c a v m, fun h => expandW_all_of_bcast h a v,
    fun h => expandW_all_of_not_bcast h a v, expandW_all_modules c a v, fun _ => expandW_writes⟩

end Sys2Proof.Machine

/-! The bits of the control-word byte (42 R211), under a layout whose five positions are distinct and lie above the
brightness bits. -/

namespace Sys2Proof

theorem CwLayout.positions_nodup_iff (l : CwLayout) : l.positions.Nodup ↔
    (l.fe ≠ l.be ∧ l.fe ≠ l.tr ∧ l.fe ≠ l.st ∧ l.fe ≠ l.cl) ∧ (l.be ≠ l.tr ∧ l.be ≠ l.st ∧ l.be ≠ l.cl) ∧
      (l.tr ≠ l.st ∧ l.tr ≠ l.cl) ∧ l.st ≠ l.cl := by
  simp [positions]

end Sys2Proof

namespace Sys2Proof.Machine

/-! ### A bit after the assignments -/

theorem getLsbD_setBit_self (b : Byte) {i : Nat} (hi : i < 8) (v : Bool) : (setBit b i v).getLsbD i = v := by
  rw [getLsbD_setBit, if_pos ⟨rfl, hi⟩]

theorem getLsbD_setBit_ne (b : Byte) {i j : Nat} (h : j ≠ i) (v : Bool) : (setBit b i v).getLsbD j = b.getLsbD j := by
  rw [getLsbD_setBit, if_neg fun hj => h hj.1]

/-! ### The fields -/

section
variable {s : State} (m : Nat)

theorem cwByte_br (hrange : ∀ p ∈ s.cfg.cwl.positions, 3 ≤ p ∧ p ≤ 7) :
    (cwByte s m).extractLsb' 0 3 = s.cwg.br := by
  refine BitVec.eq_of_getLsbD_eq fun j hj => ?_
  have hne : ∀ p ∈ s.cfg.cwl.positions, j ≠ p := fun p hp => by have := hrange p hp; omega
  simp only [CwLayout.positions, List.forall_mem_cons] at hne
  obtain ⟨hfe, hbe, htr, hst, hcl, -⟩ := hne
  rw [BitVec.getLsbD_extractLsb', Nat.zero_add, cwByte, getLsbD_setBit_ne _ hcl, getLsbD_setBit_ne _ hst,
    getLsbD_setBit_ne _ htr, getLsbD_setBit_ne _ hbe, getLsbD_setBit_ne _ hfe, BitVec.getLsbD_setWidth]
  simp [hj, show j < 8 by omega]

/-- Each of the five assignments outlives the later ones, which go to other positions. -/
theorem cwByte_positions (hrange : ∀ p ∈ s.cfg.cwl.positions, 3 ≤ p ∧ p ≤ 7) (hnodup : s.cfg.cwl.positions.Nodup) :
    (cwByte s m).getLsbD s.cfg.cwl.fe = s.cwg.fe ∧ (cwByte s m).getLsbD s.cfg.cwl.be = s.cwg.be ∧
      (cwByte s m).getLsbD s.cfg.cwl.tr = false ∧ (cwByte s m).getLsbD s.cfg.cwl.st = s.selfTestReq m ∧
      (cwByte s m).getLsbD s.cfg.cwl.cl = s.cwg.cl := by
  have hlt : ∀ p ∈ s.cfg.cwl.positions, p < 8 := fun p hp => by have := hrange p hp; omega
  simp only [CwLayout.positions, List.forall_mem_cons] at hlt
  obtain ⟨hfe, hbe, htr, hst, hcl, -⟩ := hlt
  obtain ⟨⟨febe, fetr, fest, fecl⟩, ⟨betr, best, becl⟩, ⟨trst, trcl⟩, stcl⟩ :=
    (CwLayout.positions_nodup_iff _).1 hnodup
  unfold cwByte
  refine ⟨?fe, ?be, ?tr, ?st, getLsbD_setBit_self _ hcl _⟩
  case fe =>
    rw [getLsbD_setBit_ne _ fecl, getLsbD_setBit_ne _ fest, getLsbD_setBit_ne _ fetr, getLsbD_setBit_ne _ febe,
      getLsbD_setBit_self _ hfe]
  case be =>
    rw [getLsbD_setBit_ne _ becl, getLsbD_setBit_ne _ best, getLsbD_setBit_ne _ betr, getLsbD_setBit_self _ hbe]
  case tr => rw [getLsbD_setBit_ne _ trcl, getLsbD_setBit_ne _ trst, getLsbD_setBit_self _ htr]
  case st => rw [getLsbD_setBit_ne _ stcl, getLsbD_setBit_self _ hst]

end

/-! ### The byte under the default layout -/

/-- A byte is its five high bits over its low three. -/
theorem byte_eq_high_bits_append (b : Byte) :
    b = BitVec.ofBool (b.getLsbD 7) ++ BitVec.ofBool (b.getLsbD 6) ++ BitVec.ofBool (b.getLsbD 5) ++
      BitVec.ofBool (b.getLsbD 4) ++ BitVec.ofBool (b.getLsbD 3) ++ b.extractLsb' 0 3 := by
  refine BitVec.eq_of_getLsbD_eq fun j hj => ?_
  simp only [BitVec.getLsbD_append, BitVec.getLsbD_ofBool, BitVec.getLsbD_extractLsb']
  interval_cases j <;> simp

theorem cwByte_of_default_layout {s : State} (m : Nat) (hl : s.cfg.cwl = CwLayout.default) :
    cwByte s m = BitVec.ofBool s.cwg.cl ++ BitVec.ofBool (s.selfTestReq m) ++ 0#1 ++ BitVec.ofBool s.cwg.be ++
      BitVec.ofBool s.cwg.fe ++ s.cwg.br := by
  have hrange : ∀ p ∈ s.cfg.cwl.positions, 3 ≤ p ∧ p ≤ 7 := by rw [hl]; decide
  have hnodup : s.cfg.cwl.positions.Nodup := by rw [hl]; decide
  have hfields := cwByte_positions m hrange hnodup
  simp only [hl, CwLayout.default] at hfields
  obtain ⟨hfe, hbe, htr, hst, hcl⟩ := hfields
  rw [byte_eq_high_bits_append (cwByte s m), cwByte_br m hrange, hfe, hbe, htr, hst, hcl]
  rfl

/-- Settles O28: the assignments of R211 go to distinct positions above the brightness bits, so none undoes another; under
the default layout these fields are all eight bits. -/
theorem controlWordByteHasItsFields : Obligations.ControlWordByteHasItsFields :=
  ⟨fun _ m hok =>
    have hrange := Config.ok_cwl_range hok
    ⟨cwByte_br m hrange, cwByte_positions m hrange (Config.ok_cwl_nodup hok)⟩,
    fun _ m hl => cwByte_of_default_layout m hl⟩

end Sys2Proof.Machine

/-! Decoding and encoding are inverse to each other (30 R93, R97): the fields of a command's word, the row of the table
that takes it, and what the words of a row encode. -/

namespace Sys2Proof

open Laws.EncodesItsOp (op)

/-! ### The fields of a command's word (30 R91, R93) -/

/-- SP of a command's word. -/
def Instr.spBits : Instr → BitVec 4
  | .wrlog sp _ _ _ | .wrpos sp _ _ => sp.code
  | _ => 0

/-- TS of a command's word, or the high byte of POS or K. -/
def Instr.tsBits : Instr → Byte
  | .wrreg t _ _ | .rdreg t _ | .wrlog _ t _ _ | .selftest t _ | .rdtest t => t.code
  | .wrpos _ p _ | .ldfmap p _ => p.extractLsb' 8 8
  | _ => 0

/-- AD or IX of a command's word, or the low byte of POS or K. -/
def Instr.adBits : Instr → Byte
  | .wrreg _ ad _ | .rdreg _ ad | .wrlog _ _ ad _ => ad
  | .wrpos _ p _ | .ldfmap p _ => p.extractLsb' 0 8
  | _ => 0

/-- DT of a command's word, or BR or V with the zeros above it. -/
def Instr.dtBits : Instr → Byte
  | .wrreg _ _ dt | .wrlog _ _ _ dt | .wrpos _ _ dt | .ldfmap _ dt => dt
  | .setbri br => 0#5 ++ br
  | .setflen v | .setblen v | .setclr v | .selftest _ v => 0#7 ++ bit1 v
  | _ => 0

theorem append_halves (a b : BitVec 4) (p : BitVec 16) (d : Byte) :
    a ++ b ++ p ++ d = a ++ b ++ p.extractLsb' 8 8 ++ p.extractLsb' 0 8 ++ d := by
  refine BitVec.eq_of_getLsbD_eq fun j hj => ?_
  simp only [BitVec.getLsbD_append, BitVec.getLsbD_extractLsb']
  grind

theorem append_bit_of_target (a b : BitVec 4) (t : Byte) (v : BitVec 1) :
    a ++ b ++ t ++ 0#15 ++ v = a ++ b ++ t ++ 0#8 ++ (0#7 ++ v) := by
  refine BitVec.eq_of_getLsbD_eq fun j hj => ?_
  simp only [BitVec.getLsbD_append, BitVec.getLsbD_zero]
  grind

theorem append_low_zeros (a b : BitVec 4) (t : Byte) : a ++ b ++ t ++ 0#16 = a ++ b ++ t ++ 0#8 ++ 0#8 := by
  refine BitVec.eq_of_getLsbD_eq fun j hj => ?_
  simp only [BitVec.getLsbD_append, BitVec.getLsbD_zero]
  grind

/-- The word of a command is its five fields side by side. -/
theorem encode_eq_fields (i : Instr) : encode i = op i ++ i.spBits ++ i.tsBits ++ i.adBits ++ i.dtBits := by
  cases i with
  | wrreg | rdreg | wrlog | flashmap => rfl
  | wrpos | ldfmap => exact append_halves _ _ _ _
  | setbri br => revert br; decide
  | setflen v | setblen v | setclr v => cases v <;> rfl
  | selftest => exact append_bit_of_target _ _ _ _
  | rdtest => exact append_low_zeros _ _ _

section
variable (i : Instr)

@[simp] theorem opField_encode : opField (encode i) = op i := by
  rw [encode_eq_fields]; exact (fields_of_append ..).1

@[simp] theorem spField_encode : spField (encode i) = i.spBits := by
  rw [encode_eq_fields]; exact (fields_of_append ..).2.1

@[simp] theorem tsField_encode : tsField (encode i) = i.tsBits := by
  rw [encode_eq_fields]; exact (fields_of_append ..).2.2.1

@[simp] theorem adField_encode : adField (encode i) = i.adBits := by
  rw [encode_eq_fields]; exact (fields_of_append ..).2.2.2.1

@[simp] theorem dtField_encode : dtField (encode i) = i.dtBits := by
  rw [encode_eq_fields]; exact (fields_of_append ..).2.2.2.2.1

end

/-- POS and K are the fields TS and AD together (30 R91). -/
theorem posField_eq (w : Word) : posField w = tsField w ++ adField w :=
  (BitVec.extractLsb'_append_extractLsb'_eq_extractLsb' (x := w) (start₂ := 16) (start₁ := 8) (len₂ := 8)
    (len₁ := 8) rfl).symm

theorem brField_eq (w : Word) : brField w = (dtField w).extractLsb' 0 3 := by
  refine BitVec.eq_of_getLsbD_eq fun j hj => ?_
  simp [brField, dtField, hj]

theorem vField_eq (w : Word) : vField w = (dtField w).getLsbD 0 := by
  simp [vField, dtField]

/-! ### The rows of the table -/

/-- The OPs of the rows are distinct (30 R97). -/
theorem rows_op_nodup : (rows.map fun r => opField r.value).Nodup := by decide

/-- At most one row of the table takes a word. -/
theorem row_unique {r q : Row} {w : Word} (hr : r ∈ rows) (hq : q ∈ rows) (hrw : r.hits w = true)
    (hqw : q.hits w = true) : r = q :=
  List.inj_on_of_nodup_map rows_op_nodup hr hq
    ((opField_eq_of_hits hr hrw).symm.trans (opField_eq_of_hits hq hqw))

/-- Settles O4: every row tests OP, and no two rows have one OP. -/
theorem decodeRowsAreDisjoint : Obligations.DecodeRowsAreDisjoint := by
  have hops : rows.Pairwise fun r q => opField r.value ≠ opField q.value := List.pairwise_map.1 rows_op_nodup
  refine hops.imp_of_mem fun hr hq hne w hhits => hne ?_
  exact (opField_eq_of_hits hr hhits.1).symm.trans (opField_eq_of_hits hq hhits.2)

/-- A word decodes to what the row that takes it builds. -/
theorem decode_eq_ok_iff_row (w : Word) (i : Instr) :
    decode w = .ok i ↔ ∃ r ∈ rows, r.hits w = true ∧ r.build w = some i := by
  rw [decode_eq_ok_iff]
  constructor
  · intro h
    obtain ⟨r, hr, hb⟩ := List.exists_of_findSome?_eq_some h
    obtain ⟨hhits, hb⟩ := Option.ite_none_right_eq_some.1 hb
    exact ⟨r, hr, hhits, hb⟩
  · rintro ⟨r, hr, hhits, hb⟩
    cases hfind : rows.findSome? fun r => if r.hits w then r.build w else none with
    | none =>
      have hnone := List.findSome?_eq_none_iff.1 hfind r hr
      rw [if_pos hhits, hb] at hnone
      cases hnone
    | some j =>
      obtain ⟨q, hq, hbq⟩ := List.exists_of_findSome?_eq_some hfind
      obtain ⟨hhitsq, hbq⟩ := Option.ite_none_right_eq_some.1 hbq
      obtain rfl := row_unique hr hq hhits hhitsq
      exact hbq.symm.trans hb

/-- The row of a command in the table of 30 R93. -/
def rowOf : Instr → Row
  | .wrreg _ _ _ => rows[0]
  | .rdreg _ _ => rows[1]
  | .wrlog _ _ _ _ => rows[2]
  | .wrpos _ _ _ => rows[3]
  | .setbri _ => rows[4]
  | .setflen _ => rows[5]
  | .setblen _ => rows[6]
  | .setclr _ => rows[7]
  | .selftest _ _ => rows[8]
  | .rdtest _ => rows[9]
  | .ldfmap _ _ => rows[10]
  | .flashmap => rows[11]

theorem rowOf_mem (i : Instr) : rowOf i ∈ rows := by
  cases i <;> exact List.getElem_mem _

theorem low_bits_of_br : ∀ br : BitVec 3, (0#5 ++ br) &&& 0xF8 = 0 ∧ (0#5 ++ br).extractLsb' 0 3 = br := by decide

theorem low_bits_of_v : ∀ v : Bool, (0#7 ++ bit1 v) &&& 0xFE = 0 ∧ (0#7 ++ bit1 v).getLsbD 0 = v := by decide

/-- A command's row takes its word. -/
theorem rowOf_hits_encode (i : Instr) : (rowOf i).hits (encode i) = true := by
  cases i with
  | wrreg => exact (wrreg_row_iff _).2 (by simp [op, Instr.spBits])
  | rdreg => exact (rdreg_row_iff _).2 (by simp [op, Instr.spBits, Instr.dtBits])
  | wrlog => exact (wrlog_row_iff _).2 (by simp [op])
  | wrpos => exact (wrpos_row_iff _).2 (by simp [op])
  | setbri br =>
    refine (setbri_row_iff _).2 ?_
    simpa [op, Instr.spBits, Instr.tsBits, Instr.adBits, Instr.dtBits] using (low_bits_of_br br).1
  | setflen v =>
    refine (setflen_row_iff _).2 ?_
    simpa [op, Instr.spBits, Instr.tsBits, Instr.adBits, Instr.dtBits] using (low_bits_of_v v).1
  | setblen v =>
    refine (setblen_row_iff _).2 ?_
    simpa [op, Instr.spBits, Instr.tsBits, Instr.adBits, Instr.dtBits] using (low_bits_of_v v).1
  | setclr v =>
    refine (setclr_row_iff _).2 ?_
    simpa [op, Instr.spBits, Instr.tsBits, Instr.adBits, Instr.dtBits] using (low_bits_of_v v).1
  | selftest t v =>
    exact (selftest_row_iff _).2 (by simpa [op, Instr.spBits, Instr.adBits, Instr.dtBits] using (low_bits_of_v v).1)
  | rdtest => exact (rdtest_row_iff _).2 (by simp [op, Instr.spBits, Instr.adBits, Instr.dtBits])
  | ldfmap => exact (ldfmap_row_iff _).2 (by simp [op, Instr.spBits])
  | flashmap => exact (flashmap_row_iff _).2 (by simp [op, Instr.spBits, Instr.tsBits, Instr.adBits, Instr.dtBits])

theorem halves_append (p : BitVec 16) : p.extractLsb' 8 8 ++ p.extractLsb' 0 8 = p := by
  exact (BitVec.extractLsb'_append_extractLsb'_eq_extractLsb' (x := p) (start₂ := 8) (start₁ := 0) (len₂ := 8)
    (len₁ := 8) rfl).trans BitVec.extractLsb'_eq_self

/-- A well-formed command's row builds it from its word. -/
theorem rowOf_build_encode {i : Instr} (h : i.wf = true) : (rowOf i).build (encode i) = some i := by
  cases i with
  | wrreg | rdreg | wrlog | rdtest | flashmap =>
    simp [rowOf, rows, Instr.spBits, Instr.tsBits, Instr.adBits, Instr.dtBits]
  | wrpos sp pos dt =>
    have hlocal : sp.isLocal = true := h
    simp [rowOf, rows, posField_eq, Instr.spBits, Instr.tsBits, Instr.adBits, Instr.dtBits, halves_append, hlocal]
  | ldfmap => simp [rowOf, rows, posField_eq, Instr.tsBits, Instr.adBits, Instr.dtBits, halves_append]
  | setbri br => simpa [rowOf, rows, brField_eq, Instr.dtBits] using (low_bits_of_br br).2
  | setflen v | setblen v | setclr v | selftest _ v =>
    simpa [rowOf, rows, vField_eq, Instr.tsBits, Instr.dtBits] using (low_bits_of_v v).2

/-- Settles O1: the row of a command takes its word and builds the command from it. -/
theorem encodedCommandsDecodeBack : Obligations.EncodedCommandsDecodeBack := fun i h =>
  (decode_eq_ok_iff_row _ i).2 ⟨rowOf i, rowOf_mem i, rowOf_hits_encode i, rowOf_build_encode h⟩

/-! ### What the words of a row encode -/

theorem eq_br_of_high_zero : ∀ b : Byte, b &&& 0xF8 = 0 → 0#5 ++ b.extractLsb' 0 3 = b := by decide

theorem eq_v_of_high_zero : ∀ b : Byte, b &&& 0xFE = 0 → 0#7 ++ bit1 (b.getLsbD 0) = b := by decide

/-- A command whose fields are those of `w` has `w` as its word. -/
theorem encode_eq_of_fields {i : Instr} {w : Word} (hop : op i = opField w) (hsp : i.spBits = spField w)
    (hts : i.tsBits = tsField w) (had : i.adBits = adField w) (hdt : i.dtBits = dtField w) : encode i = w := by
  rw [encode_eq_fields, hop, hsp, hts, had, hdt]
  exact (word_eq_fields w).symm

theorem halves_posField (w : Word) :
    (posField w).extractLsb' 8 8 = tsField w ∧ (posField w).extractLsb' 0 8 = adField w := by
  constructor <;>
  · refine BitVec.eq_of_getLsbD_eq fun j hj => ?_
    simp only [posField, tsField, adField, BitVec.getLsbD_extractLsb']
    grind

/-- Every word that a row takes and builds a command from is the word of that command. -/
theorem encode_of_row {r : Row} {w : Word} {i : Instr} (hr : r ∈ rows) (hhits : r.hits w = true)
    (hb : r.build w = some i) : i.wf = true ∧ encode i = w := by
  obtain ⟨hpts, hpad⟩ := halves_posField w
  have hbr : dtField w &&& 0xF8 = 0 → 0#5 ++ brField w = dtField w := brField_eq w ▸ eq_br_of_high_zero _
  have hv : dtField w &&& 0xFE = 0 → 0#7 ++ bit1 (vField w) = dtField w := vField_eq w ▸ eq_v_of_high_zero _
  simp only [rows, List.mem_cons, List.not_mem_nil, or_false] at hr
  obtain rfl | rfl | rfl | rfl | rfl | rfl | rfl | rfl | rfl | rfl | rfl | rfl := hr
  · obtain ⟨hop, hsp⟩ := (wrreg_row_iff w).1 hhits
    cases hb
    exact ⟨rfl, encode_eq_of_fields hop.symm hsp.symm (code_targetOf _) rfl rfl⟩
  · obtain ⟨hop, hsp, hdt⟩ := (rdreg_row_iff w).1 hhits
    cases hb
    exact ⟨rfl, encode_eq_of_fields hop.symm hsp.symm (code_targetOf _) rfl hdt.symm⟩
  · have hop := (wrlog_row_iff w).1 hhits
    obtain ⟨sp, hsp, rfl⟩ := Option.map_eq_some_iff.1 hb
    exact ⟨rfl, encode_eq_of_fields hop.symm (code_of_spaceOf hsp) (code_targetOf _) rfl rfl⟩
  · have hop := (wrpos_row_iff w).1 hhits
    obtain ⟨sp, hsp, rfl⟩ := Option.map_eq_some_iff.1 hb
    obtain ⟨hsp, hlocal⟩ := Option.filter_eq_some_iff.1 hsp
    exact ⟨hlocal, encode_eq_of_fields hop.symm (code_of_spaceOf hsp) hpts hpad rfl⟩
  · obtain ⟨hop, hsp, hts, had, hdt⟩ := (setbri_row_iff w).1 hhits
    cases hb
    exact ⟨rfl, encode_eq_of_fields hop.symm hsp.symm hts.symm had.symm (hbr hdt)⟩
  · obtain ⟨hop, hsp, hts, had, hdt⟩ := (setflen_row_iff w).1 hhits
    cases hb
    exact ⟨rfl, encode_eq_of_fields hop.symm hsp.symm hts.symm had.symm (hv hdt)⟩
  · obtain ⟨hop, hsp, hts, had, hdt⟩ := (setblen_row_iff w).1 hhits
    cases hb
    exact ⟨rfl, encode_eq_of_fields hop.symm hsp.symm hts.symm had.symm (hv hdt)⟩
  · obtain ⟨hop, hsp, hts, had, hdt⟩ := (setclr_row_iff w).1 hhits
    cases hb
    exact ⟨rfl, encode_eq_of_fields hop.symm hsp.symm hts.symm had.symm (hv hdt)⟩
  · obtain ⟨hop, hsp, had, hdt⟩ := (selftest_row_iff w).1 hhits
    cases hb
    exact ⟨rfl, encode_eq_of_fields hop.symm hsp.symm (code_targetOf _) had.symm (hv hdt)⟩
  · obtain ⟨hop, hsp, had, hdt⟩ := (rdtest_row_iff w).1 hhits
    cases hb
    exact ⟨rfl, encode_eq_of_fields hop.symm hsp.symm (code_targetOf _) had.symm hdt.symm⟩
  · obtain ⟨hop, hsp⟩ := (ldfmap_row_iff w).1 hhits
    cases hb
    exact ⟨rfl, encode_eq_of_fields hop.symm hsp.symm hpts hpad rfl⟩
  · obtain ⟨hop, hsp, hts, had, hdt⟩ := (flashmap_row_iff w).1 hhits
    cases hb
    exact ⟨rfl, encode_eq_of_fields hop.symm hsp.symm hts.symm had.symm hdt.symm⟩

/-- Settles O2: the word decodes by the row that takes it, and every row keeps all the bits of its words. -/
theorem decodedWordsEncodeBack : Obligations.DecodedWordsEncodeBack := fun w i h =>
  have ⟨_, hr, hhits, hb⟩ := (decode_eq_ok_iff_row w i).1 h
  encode_of_row hr hhits hb

end Sys2Proof

/-! Which words decode (30 R93, R99), what the assembler emits (30 R103), and what an edge does with an accepted word
(40 R138). -/

namespace Sys2Proof

/-! ### The example words of 30 R101 -/

/-- Settles O3: twelve closed runs of the decoder. -/
theorem exampleWordsOfTheSyntaxTableDecode : Obligations.ExampleWordsOfTheSyntaxTableDecode :=
  ⟨rfl, rfl, rfl, rfl, rfl, rfl, rfl, rfl, rfl, rfl, rfl, rfl⟩

/-! ### Must-be-zero fields -/

theorem extractLsb'_eq_zero_iff {n : Nat} (w : BitVec n) (lo len : Nat) :
    w.extractLsb' lo len = 0 ↔ ∀ j < len, w.getLsbD (lo + j) = false := by
  constructor
  · intro h j hj
    simpa [hj] using congrArg (·.getLsbD j) h
  · intro h
    refine BitVec.eq_of_getLsbD_eq fun j hj => ?_
    simp [h j hj]

/-- A field is zero exactly when its high and its low part are. -/
theorem extractLsb'_add_eq_zero_iff {n : Nat} (w : BitVec n) (lo k l : Nat) :
    w.extractLsb' lo (k + l) = 0 ↔ w.extractLsb' (lo + k) l = 0 ∧ w.extractLsb' lo k = 0 := by
  simp only [extractLsb'_eq_zero_iff]
  refine ⟨fun h => ⟨fun j hj => ?_, fun j hj => h j (by omega)⟩, fun ⟨hhigh, hlow⟩ j hj => ?_⟩
  · simpa [Nat.add_assoc] using h (k + j) (by omega)
  · by_cases hjk : j < k
    · exact hlow j hjk
    · simpa [show lo + k + (j - k) = lo + j by omega] using hhigh (j - k) (by omega)

theorem dtField_and_eq_zero_iff (w : Word) :
    (dtField w &&& 0xF8 = 0 ↔ w.extractLsb' 3 5 = 0) ∧ (dtField w &&& 0xFE = 0 ↔ w.extractLsb' 1 7 = 0) := by
  have hbyte : ∀ b : Byte, (b &&& 0xF8 = 0 ↔ b.extractLsb' 3 5 = 0) ∧ (b &&& 0xFE = 0 ↔ b.extractLsb' 1 7 = 0) := by
    decide
  have hsub : (dtField w).extractLsb' 3 5 = w.extractLsb' 3 5 ∧ (dtField w).extractLsb' 1 7 = w.extractLsb' 1 7 := by
    constructor <;>
    · refine BitVec.eq_of_getLsbD_eq fun j hj => ?_
      simp only [dtField, BitVec.getLsbD_extractLsb']
      grind
  rw [← hsub.1, ← hsub.2]
  exact hbyte _

section
variable (w : Word)

theorem low16_eq_zero_iff : w.extractLsb' 0 16 = 0 ↔ adField w = 0 ∧ dtField w = 0 :=
  extractLsb'_add_eq_zero_iff w 0 8 8

theorem bits15_1_eq_zero_iff : w.extractLsb' 1 15 = 0 ↔ adField w = 0 ∧ dtField w &&& 0xFE = 0 := by
  rw [(dtField_and_eq_zero_iff w).2]
  exact extractLsb'_add_eq_zero_iff w 1 7 8

theorem bits27_8_eq_zero_iff : w.extractLsb' 8 20 = 0 ↔ spField w = 0 ∧ tsField w = 0 ∧ adField w = 0 := by
  rw [← and_assoc]
  exact (extractLsb'_add_eq_zero_iff w 8 8 12).trans
    (and_congr_left' (extractLsb'_add_eq_zero_iff w 16 8 4))

theorem bits27_3_eq_zero_iff : w.extractLsb' 3 25 = 0 ↔
    spField w = 0 ∧ tsField w = 0 ∧ adField w = 0 ∧ dtField w &&& 0xF8 = 0 := by
  rw [(dtField_and_eq_zero_iff w).1, extractLsb'_add_eq_zero_iff w 3 5 20, bits27_8_eq_zero_iff]
  tauto

theorem bits27_1_eq_zero_iff : w.extractLsb' 1 27 = 0 ↔
    spField w = 0 ∧ tsField w = 0 ∧ adField w = 0 ∧ dtField w &&& 0xFE = 0 := by
  rw [(dtField_and_eq_zero_iff w).2, extractLsb'_add_eq_zero_iff w 1 7 20, bits27_8_eq_zero_iff]
  tauto

theorem low28_eq_zero_iff : w.extractLsb' 0 28 = 0 ↔
    spField w = 0 ∧ tsField w = 0 ∧ adField w = 0 ∧ dtField w = 0 := by
  rw [extractLsb'_add_eq_zero_iff w 0 8 20, bits27_8_eq_zero_iff, and_assoc, and_assoc]
  rfl

end

/-! ### The words that decode -/

theorem isSome_spaceOf_iff : ∀ sp : BitVec 4, (spaceOf sp).isSome = true ↔ sp.toNat ≤ 4 := by decide

theorem isSome_localSpaceOf_iff :
    ∀ sp : BitVec 4, ((spaceOf sp).filter Space.isLocal).isSome = true ↔ sp = 3 ∨ sp = 4 := by decide

theorem decodes_iff_row (w : Word) :
    (∃ i, decode w = .ok i) ↔ ∃ r ∈ rows, r.hits w = true ∧ (r.build w).isSome = true := by
  simp only [decode_eq_ok_iff_row, Option.isSome_iff_exists]
  exact ⟨fun ⟨i, r, hr, hhits, hb⟩ => ⟨r, hr, hhits, i, hb⟩, fun ⟨r, hr, hhits, i, hb⟩ => ⟨i, r, hr, hhits, hb⟩⟩

/-- Settles O6: some row takes the word and its extra condition holds; each row's test is one on the fields. -/
theorem decodesExactlyTheLegalWords : Obligations.DecodesExactlyTheLegalWords := by
  intro w
  rw [decodes_iff_row, low16_eq_zero_iff, bits15_1_eq_zero_iff, bits27_3_eq_zero_iff, bits27_1_eq_zero_iff,
    low28_eq_zero_iff, ← isSome_spaceOf_iff, ← isSome_localSpaceOf_iff]
  simp only [rows, List.exists_mem_cons_iff, List.not_mem_nil, Row.hits, wrreg_row_iff, rdreg_row_iff, wrlog_row_iff,
    wrpos_row_iff, setbri_row_iff, setflen_row_iff, setblen_row_iff, setclr_row_iff, selftest_row_iff, rdtest_row_iff,
    ldfmap_row_iff, flashmap_row_iff, Option.isSome_map, Option.isSome_some, false_and, exists_false, or_false, and_true,
    or_and_right, or_assoc]

end Sys2Proof

namespace Sys2Proof.Machine

/-! ### What the assembler emits (30 R103, R104) -/

theorem expandPuts_wf {pos : Nat} {cs : List Char} {is : List Instr} (h : expandPuts pos cs = some is) :
    ∀ i ∈ is, i.wf = true := by
  induction cs generalizing pos is with
  | nil => cases h; simp
  | cons c cs ih =>
    simp only [expandPuts, Option.ite_none_right_eq_some, Option.map_eq_some_iff] at h
    obtain ⟨-, js, hjs, rfl⟩ := h
    exact List.forall_mem_cons.2 ⟨rfl, ih hjs⟩

theorem expandUdcdef_wf (tgt : Target) (u : Byte) (rs : List Byte) : ∀ i ∈ expandUdcdef tgt u rs, i.wf = true := by
  simp [expandUdcdef, Instr.wf]

theorem expandFmapload_wf (tw value : Nat) : ∀ i ∈ expandFmapload tw value, i.wf = true := by
  simp [expandFmapload, Instr.wf]

/-- The operands of every mnemonic fit their fields; the one condition of a command that its operand types do not carry,
WRPOS's space, is checked where the space is read. -/
theorem assembleOperands_wf {tw : Nat} {mn : Mnemonic} {ops : List Token} {is : List Instr}
    (h : assembleOperands tw mn ops = some is) : ∀ i ∈ is, i.wf = true := by
  unfold assembleOperands at h
  split at h
  all_goals
    simp only [Option.bind_eq_bind, Option.bind_eq_some_iff, Option.pure_def, Option.some.injEq,
      Option.map_eq_some_iff, Option.filter_eq_some_iff, reduceCtorEq] at h
  case h_15 =>
    obtain ⟨pos, -, h⟩ := h
    exact expandPuts_wf h
  case h_16 =>
    obtain ⟨tgt, -, u, -, rs, -, rfl⟩ := h
    exact expandUdcdef_wf tgt u rs
  case h_17 =>
    obtain ⟨value, -, rfl⟩ := h
    exact expandFmapload_wf tw value
  all_goals grind [Instr.wf, Space.isLocal]

theorem assembleLine_wf {tw : Nat} {line : List Char} {is : List Instr} (h : assembleLine tw line = .ok is) :
    ∀ i ∈ is, i.wf = true := by
  unfold assembleLine at h
  split at h
  · cases h
  · cases h
    simp
  · split at h
    · cases h
    · cases h
    · split at h
      · rename_i hops
        cases h
        exact assembleOperands_wf hops
      · cases h
  · cases h

/-- Settles O7: every command an accepted line gives is well formed, and the words of such commands decode. -/
theorem assemblerEmitsNoIllegalWord : Obligations.AssemblerEmitsNoIllegalWord := fun _ _ _ h i hi =>
  encodedCommandsDecodeBack i (assembleLine_wf h i hi)

/-! ### The accepting edge (40 R138) -/

/-- Settles O8: the accepting edge is `acceptWord`, which runs the decoded command. -/
theorem stepRunsTheDecodedCommand : Obligations.StepRunsTheDecodedCommand := fun s w i ha hd =>
  ⟨(decodedWordsEncodeBack w i hd).1, by rw [step_of_accepts ha, acceptWord, hd]⟩

/-- Settles O9: the accepting edge of a word that does not decode only raises ILLEGAL. -/
theorem undecodableWordsAreRejectedWithIllegal : Obligations.UndecodableWordsAreRejectedWithIllegal :=
  fun s _ _ ha hd => (step_of_accepts ha).trans (acceptWord_of_error hd s.tick)

/-! ### Which pins an edge reads (10 R38, 40 R137) -/

/-- The edge by its four kinds of case (40 R137, 70 R280). -/
theorem step_eq (s : State) : step s =
    if s.cfg.ok = false then .refused .badConfig
    else if s.pins.rst then .next (resetEdge s.tick)
    else if s.ph = .idle then
      if s.pins.cmdValid then acceptWord s.pins.cmd s.tick else .next s.tick
    else advance s.pins.dIn s.tick := by
  simp [step, State.cmdReady, State.busy]

/-- Settles O10: the idle edge with no word presented is the passing of its inputs. -/
theorem idleEdgeWithoutCommandChangesNothing : Obligations.IdleEdgeWithoutCommandChangesNothing := by
  intro s h hrst hvalid
  rw [step_eq]
  simp [h.1, h.2, hrst, hvalid]

/-- The edge of a state whose next inputs are listed. -/
theorem step_listed (s : State) (i : EdgeInput) (rest : List EdgeInput) :
    step { s with inputs := i :: rest } =
      if s.cfg.ok = false then .refused .badConfig
      else if i.rst then .next (resetEdge { s with inputs := rest })
      else if s.ph = .idle then
        if i.cmdValid then acceptWord i.cmd { s with inputs := rest } else .next { s with inputs := rest }
      else advance i.dIn { s with inputs := rest } :=
  step_eq _

/-- Settles O11: the step engine's edge has no argument for the command port. -/
theorem busySequencerIgnoresTheCommandPort : Obligations.BusySequencerIgnoresTheCommandPort := by
  intro s i j rest hp hrst hdin
  rw [step_listed, step_listed, hrst, hdin, if_neg hp, if_neg hp]

/-- Every step of a cycle but R5 leaves `d_in` unread. -/
theorem enterStep_dIn {p : Phase} (hp : p ≠ .r5) (b b' : Byte) (d : Desc) (s : State) :
    enterStep b d p s = enterStep b' d p s := by
  cases d <;> cases p <;> simp_all [enterStep, performStep]

/-- The step engine reads `d_in` only where it enters R5. -/
theorem advance_dIn {s : State} (h : ¬ (s.ph = .r4 ∧ s.cnt ≤ 1)) (b b' : Byte) : advance b s = advance b' s := by
  unfold advance
  split
  · rfl
  · split
    · rfl
    · split
      · rfl
      · rename_i hcnt
        split
        · rename_i p hp
          rw [enterStep_dIn fun hr => h ⟨next?_eq_r5 (hr ▸ hp), Nat.le_of_not_lt hcnt⟩]
        · rfl

/-- Settles O12: the accepting edge does not have `d_in`, and the step engine reads it only where R4 has elapsed. -/
theorem dataPinsMatterOnlyAtTheSampleStep : Obligations.DataPinsMatterOnlyAtTheSampleStep := by
  intro s i j rest hsample hrst hvalid hcmd
  rw [step_listed, step_listed, hrst, hvalid, hcmd]
  congr 3
  exact advance_dIn (s := { s with inputs := rest }) hsample i.dIn j.dIn

/-- Settles O13: `accept` answers a block that is not ready with the same state. -/
theorem commandWaitsWhileThePortIsNotReady : Obligations.CommandWaitsWhileThePortIsNotReady := by
  intro i s hok hp
  rw [exec_eq_accept]
  simp [accept, hok, hp]

/-- Settles O14: a reset edge is `resetEdge`, each field of which is the reset value. -/
theorem resetEdgeGivesEveryItemItsResetValue : Obligations.ResetEdgeGivesEveryItemItsResetValue := by
  intro s hok hrst
  refine ⟨resetEdge s.tick, by simp [step, hok, hrst], ?_⟩
  simp [State.statusWord, State.cmdReady, State.busy, CmdErr.code]

/-- Settles O15: STATUS is six fields side by side. -/
theorem statusWordHasTheLayout : Obligations.StatusWordHasTheLayout := by
  intro s
  have hbusy : s.busy = decide (s.ph ≠ .idle) := rfl
  refine ⟨?busy, ?errSeen, ?lastErr, ?tr, ?zeros, ?rdata⟩
  case busy | errSeen | tr =>
    simp only [State.statusWord, BitVec.getLsbD_append, BitVec.getLsbD_ofBool, hbusy]
    simp
  all_goals
    refine BitVec.eq_of_getLsbD_eq fun j hj => ?_
    simp only [State.statusWord, BitVec.getLsbD_extractLsb', BitVec.getLsbD_append, BitVec.ofNat_eq_ofNat,
      BitVec.getLsbD_zero]
    grind

/-- Settles O40: with more than one edge left the engine only counts down. -/
theorem dwellCountsDownOneAnEdge : Obligations.DwellCountsDownOneAnEdge := by
  intro s d hok hrst hcur hstep hcnt
  rw [step_busy hok hrst (hasStep_ne_idle hstep)]
  simp [advance, hcur, hstep, hcnt]

/-- Settles O49: each kind of edge leaves the configuration. -/
theorem noStepChangesTheConfiguration : Obligations.NoStepChangesTheConfiguration := by
  intro s s' h
  cases edge_of_step h <;> simp

end Sys2Proof.Machine

/-! What each command does at its acceptance edge: the state it starts in, or the rejection with its code (40 R142, R143,
41 R177 to R180, 42 R214 to R220, 60 R250 to R252). -/

namespace Sys2Proof.Machine

/-! ### Started and rejected commands -/

section
variable {s : State} {i : Instr}

theorem exec_starts (h : Ready s) (hc : rejectionCode s.cfg i = .none) : exec i s = .next (commandStart i s) := by
  rw [exec_ready i h, if_pos hc]

theorem exec_rejects (h : Ready s) {e : CmdErr} (hc : rejectionCode s.cfg i = e) (he : e ≠ .none) :
    exec i s = .next (s.rejected e) := by
  rw [exec_ready i h, hc, if_neg he]
  rfl

end

/-- A command whose list begins with a write leaves the W1 step of that write. -/
theorem startCommand_write (s : State) (a v : Byte) (mods : List Nat) (q : List Desc) :
    startCommand (.wd a v mods :: q) { s with lastErr := .none } = s.startedWrite a v mods q := rfl

/-- One write a module, as the first write and the waiting ones (41 R175). -/
theorem map_range_nmod {c : Config} (hok : c.ok = true) (f : Nat → Desc) :
    (List.range c.nmod).map f = f 0 :: (List.range (c.nmod - 1)).map fun m => f (m + 1) := by
  rw [range_pred_cons (Config.ok_sizes hok).1, List.map_cons, List.map_map]
  rfl

theorem startCommand_expandW_all_of_bcast {s : State} (hb : s.cfg.bcast = true) (a v : Byte) :
    startCommand (expandW s.cfg a v .all) { s with lastErr := .none } =
      s.startedWrite a v (List.range s.cfg.nmod) [] := by
  rw [expandW_all_of_bcast hb, startCommand_write]

theorem startCommand_expandW_all_of_not_bcast {s : State} (hok : s.cfg.ok = true) (hb : s.cfg.bcast = false)
    (a v : Byte) :
    startCommand (expandW s.cfg a v .all) { s with lastErr := .none } =
      s.startedWrite a v [0] ((List.range (s.cfg.nmod - 1)).map fun m => .wd a v [m + 1]) := by
  rw [expandW_all_of_not_bcast hb, map_range_nmod hok, startCommand_write]

/-! ### WRREG and RDREG -/

/-- Settles O16: WRREG starts the expansion of its target. -/
theorem wrregStartsItsWrites : Obligations.WrregStartsItsWrites := by
  intro ad dt s h
  have hall : exec (.wrreg .all ad dt) s = .next (commandStart (.wrreg .all ad dt) s) := exec_starts h rfl
  refine ⟨fun m hm => exec_starts h (if_pos hm), fun hb => hall.trans ?_, fun hb => hall.trans ?_⟩
  · exact congrArg _ (startCommand_expandW_all_of_bcast hb ad dt)
  · exact congrArg _ (startCommand_expandW_all_of_not_bcast h.1 hb ad dt)

/-- Settles O17: the one descriptor of RDREG is the read it starts. -/
theorem rdregStartsItsRead : Obligations.RdregStartsItsRead := fun _ _ _ h hm => exec_starts h (if_pos hm)

/-! ### WRLOG and WRPOS -/

/-- WRLOG of a legal index starts the expansion of its target at the register's address. -/
theorem wrlog_starts {s : State} (h : Ready s) {sp : Space} {ix dt a : Byte}
    (hx : indexOk s.cfg sp ix.toNat = true) (ha : regAddr s.cfg sp ix.toNat = a) :
    (∀ m : Fin 255, m.val < s.cfg.nmod → exec (.wrlog sp (.one m) ix dt) s = .next (s.startedWrite a dt [m.val] [])) ∧
    (s.cfg.bcast = true → exec (.wrlog sp .all ix dt) s = .next (s.startedWrite a dt (List.range s.cfg.nmod) [])) ∧
    (s.cfg.bcast = false → exec (.wrlog sp .all ix dt) s =
      .next (s.startedWrite a dt [0] ((List.range (s.cfg.nmod - 1)).map fun m => .wd a dt [m + 1]))) := by
  subst ha
  have hall : exec (.wrlog sp .all ix dt) s = .next (commandStart (.wrlog sp .all ix dt) s) :=
    exec_starts h (if_pos hx)
  refine ⟨fun m hm => exec_starts h (by simp [rejectionCode, hm, hx]), fun hb => hall.trans ?_, fun hb => hall.trans ?_⟩
  · exact congrArg _ (startCommand_expandW_all_of_bcast hb _ dt)
  · exact congrArg _ (startCommand_expandW_all_of_not_bcast h.1 hb _ dt)

/-- The entry of a table is within it, and is what the table gives with a default. -/
theorem lt_length_and_getD_of_getElem? {l : List Byte} {n : Nat} {a : Byte} (h : l[n]? = some a) :
    n < l.length ∧ l.getD n 0 = a := by
  obtain ⟨hn, -⟩ := List.getElem?_eq_some_iff.1 h
  exact ⟨hn, by simp [h]⟩

/-- Settles O18: an entry of RAT has a legal index and is the address of its register. -/
theorem wrlogStartsItsWrites : Obligations.WrlogStartsItsWrites := by
  intro sp ix dt a s h hentry
  obtain ⟨hram, hchar, hflash⟩ := Config.ok_rat_lengths h.1
  have haddr : indexOk s.cfg sp ix.toNat = true ∧ regAddr s.cfg sp ix.toNat = a := by
    cases sp with
    | udcAddr | ctrl =>
      obtain ⟨rfl, rfl⟩ := hentry
      exact ⟨rfl, rfl⟩
    | udcRam =>
      obtain ⟨hlt, hget⟩ := lt_length_and_getD_of_getElem? hentry
      exact ⟨decide_eq_true (by omega), hget⟩
    | char | flash =>
      obtain ⟨hlt, hget⟩ := lt_length_and_getD_of_getElem? hentry
      exact ⟨decide_eq_true (by omega), hget⟩
  exact wrlog_starts h haddr.1 haddr.2

/-- Settles O19: the one descriptor of WRPOS is a write at the resolved position. -/
theorem wrposWritesTheResolvedPosition : Obligations.WrposWritesTheResolvedPosition := by
  intro pos dt a s h hpos
  refine ⟨fun ha => ?_, fun ha => ?_⟩ <;>
  · obtain ⟨-, rfl⟩ := lt_length_and_getD_of_getElem? ha
    exact exec_starts h (by simp [rejectionCode, Config.tw, hpos])

/-! ### LDFMAP and FLASHMAP -/

/-- Settles O20: the eight bits of a chunk are the positions whose quotient by 8 is its number. -/
theorem ldfmapLoadsOneChunkOfTheBitmap : Obligations.LdfmapLoadsOneChunkOfTheBitmap := by
  intro k dt s h hlen hk
  obtain ⟨hlength, hbits⟩ := loadBits_spec s.cfg k.toNat dt 8 s.fmap
  refine ⟨loadChunk s.cfg k.toNat dt s.fmap, exec_starts h (if_pos (by omega)), hlength.trans hlen, fun j hj => ?_⟩
  refine (hbits j (hlen ▸ hj) hj).trans ?_
  by_cases hc : j / 8 = k.toNat
  · rw [if_pos (by omega), if_pos hc, show j - 8 * k.toNat = j % 8 by omega]
  · rw [if_neg (by omega), if_neg hc]

theorem flashByte_eq (v : Bool) : flashByte v = if v then 0x01 else 0x00 := rfl

theorem regAddr_flash {c : Config} {ix : Nat} {a : Byte} (h : c.rat.flash[ix]? = some a) : regAddr c .flash ix = a :=
  (lt_length_and_getD_of_getElem? h).2

/-- Position 0 is at index 0 of module 0. -/
theorem flashWrite_zero (s : State) :
    flashWrite s 0 = .wd (regAddr s.cfg .flash 0) (flashByte (s.flashBit (s.cfg.tw - 1))) [0] := by
  simp [flashWrite, resolve]

/-- Settles O21: the `p`-th descriptor of FLASHMAP is the write of position `p`. -/
theorem flashmapWritesEveryPositionInOrder : Obligations.FlashmapWritesEveryPositionInOrder := by
  intro s h
  obtain ⟨a, v, q, hlist⟩ : ∃ a v q, (List.range s.cfg.tw).map (flashWrite s) = .wd a v [0] :: q :=
    ⟨_, _, _, by rw [range_pred_cons (tw_pos h.1), List.map_cons, flashWrite_zero]⟩
  refine ⟨a, v, q, (exec_starts h rfl).trans (congrArg _ ?_), ?_, fun p a' hp ha' => ?_⟩
  · exact (congrArg (startCommand · _) hlist).trans (startCommand_write s a v [0] q)
  · simp [← hlist, Config.tw]
  · have hget : (List.range s.cfg.tw)[p]? = some p := List.getElem?_range hp
    have haddr : regAddr s.cfg .flash (resolve s.cfg p).2 = a' := regAddr_flash ha'
    rw [← hlist, List.getElem?_map, hget, Option.map_some, flashWrite, haddr, flashByte_eq]
    rfl

/-! ### The global setters -/

/-- The global write-out: one write to all modules, or one a module of its own byte (42 R214). -/
theorem globalWrite_eq (s : State) :
    globalWrite s =
      if s.cfg.bcast = true ∧ ∀ m < s.cfg.nmod, s.selfTestReq m = s.selfTestReq 0 then
        [.wd s.cfg.rat.ctrl (cwByte s 0) (List.range s.cfg.nmod)]
      else (List.range s.cfg.nmod).map fun m => .wd s.cfg.rat.ctrl (cwByte s m) [m] := by
  simp only [globalWrite, regAddr_ctrl, ← uniformReq_iff s]
  cases hu : uniformReq s with
  | false => simp [allMods]
  | true =>
    cases hb : s.cfg.bcast with
    | true => simp [expandW_all_of_bcast hb]
    | false =>
      simp only [expandW_all_of_not_bcast hb, if_true, Bool.false_eq_true, false_and, if_false]
      refine List.map_congr_left fun m hm => ?_
      rw [cwByte_congr_module ((uniformReq_iff s).1 hu m (List.mem_range.1 hm))]

/-- A global setter starts the write-out of the shadow it has left. -/
theorem startCommand_globalWrite {s : State} (hok : s.cfg.ok = true) :
    startCommand (globalWrite { s with lastErr := .none }) { s with lastErr := .none } = s.startedGlobal := by
  have hcw : globalWrite { s with lastErr := .none } = globalWrite s := rfl
  rw [hcw, globalWrite_eq, State.startedGlobal]
  split_ifs with hb
  · rfl
  · rw [map_range_nmod hok, startCommand_write]

/-- Settles O22. The shadow is updated before the write-out is computed from it. -/
theorem setbriUpdatesBrightnessAndWritesItOut : Obligations.SetbriUpdatesBrightnessAndWritesItOut :=
  fun br s h => (exec_starts h rfl).trans
    (congrArg _ (startCommand_globalWrite (s := { s with cwg := { s.cwg with br := br } }) h.1))

/-- Settles O23, as O22. -/
theorem setflenUpdatesFlashEnableAndWritesItOut : Obligations.SetflenUpdatesFlashEnableAndWritesItOut :=
  fun v s h => (exec_starts h rfl).trans
    (congrArg _ (startCommand_globalWrite (s := { s with cwg := { s.cwg with fe := v } }) h.1))

/-- Settles O24, as O22. -/
theorem setblenUpdatesBlinkEnableAndWritesItOut : Obligations.SetblenUpdatesBlinkEnableAndWritesItOut :=
  fun v s h => (exec_starts h rfl).trans
    (congrArg _ (startCommand_globalWrite (s := { s with cwg := { s.cwg with be := v } }) h.1))

/-- Settles O25, as O22. -/
theorem setclrUpdatesTheClearFieldAndWritesItOut : Obligations.SetclrUpdatesTheClearFieldAndWritesItOut :=
  fun v s h => (exec_starts h rfl).trans
    (congrArg _ (startCommand_globalWrite (s := { s with cwg := { s.cwg with cl := v } }) h.1))

/-! ### SELFTEST and RDTEST -/

theorem getD_set (l : List Bool) {m j : Nat} (hj : j < l.length) (v : Bool) :
    (l.set m v).getD j false = if j = m then v else l.getD j false := by
  by_cases h : j = m
  · subst h
    simp [hj]
  · simp [List.getElem?_set_ne (Ne.symm h), h]

/-- Settles O26: the byte is computed from the request bits with the module's own bit set. -/
theorem selftestUpdatesAndWritesOneModule : Obligations.SelftestUpdatesAndWritesOneModule := by
  intro m v s h hm hlen
  refine ⟨s.streq.set m.val v, exec_starts h (if_pos hm), by simpa using hlen, fun j hj => ?_⟩
  exact getD_set _ (hlen ▸ hj) v

/-- Settles O27: the one descriptor of RDTEST is the read it starts. -/
theorem rdtestStartsItsRead : Obligations.RdtestStartsItsRead := fun _ _ h hm => exec_starts h (if_pos hm)

/-! ### Rejections -/

/-- Settles O29: the check of the target is the first check of each of these commands. -/
theorem badTargetsAreRejected : Obligations.BadTargetsAreRejected := by
  intro s ad ix dt sp v h
  refine ⟨fun m hm => ?_, ?_, ?_, ?_⟩
  · have hm : ¬ m.val < s.cfg.nmod := Nat.not_lt.2 hm
    refine ⟨?_, ?_, ?_, ?_, ?_⟩ <;> exact exec_rejects h (if_neg hm) (by decide)
  all_goals exact exec_rejects h rfl (by decide)

/-- Settles O30: both spaces pass the first check of WRPOS and the position fails the second. -/
theorem positionsBeyondTheEndAreDropped : Obligations.PositionsBeyondTheEndAreDropped := by
  intro s pos dt h hpos
  have hpos : ¬ pos.toNat < s.cfg.tw := Nat.not_lt.2 hpos
  constructor <;> exact exec_rejects h (by simp [rejectionCode, hpos]) (by decide)

/-- Settles O31: the target passes the first check of WRLOG, the index or the chunk fails the next. -/
theorem badIndexesAreRejected : Obligations.BadIndexesAreRejected := by
  intro s sp tgt ix dt k h
  refine ⟨fun htgt hix => ?_, fun hk => exec_rejects h (if_neg (by omega)) (by decide)⟩
  have hx : indexOk s.cfg sp ix.toNat = false := by
    cases sp <;> exact decide_eq_false (by omega)
  refine exec_rejects (e := .badIndex) h ?_ (by decide)
  cases tgt with
  | one m => simp [rejectionCode, htgt m rfl, hx]
  | all => simp [rejectionCode, hx]

/-- Settles O32: a started command leaves NONE and a rejected one its code. -/
theorem lastErrTakesTheFirstFailingCheck : Obligations.LastErrTakesTheFirstFailingCheck := by
  intro i s s' h hx
  rw [exec_ready i h] at hx
  cases hx
  split_ifs with hc
  · rw [commandStart_lastErr, hc]
  · rfl

/-- Settles O33: a rejected command only raises its code. -/
theorem rejectionIsPrecise : Obligations.RejectionIsPrecise := fun _ _ h hc => exec_rejects h rfl hc

/-! ### Positions and register addresses -/

/-- Settles O35: the laws of quotient and remainder by W, with TW = NMOD * W. -/
theorem resolveIsAMonotoneBijection : Obligations.ResolveIsAMonotoneBijection := by
  intro c hok
  obtain ⟨-, -, hw, -⟩ := Config.ok_sizes hok
  refine ⟨fun p hp => ?_, fun m l hm hl => ⟨m * c.w + l, ?_, ?_⟩, fun p q hpq => Nat.div_le_div_right hpq, fun p => ?_⟩
  · obtain ⟨hmod, hloc⟩ := resolve_range hok hp
    exact ⟨hmod, hloc, (Nat.div_add_mod' p c.w).symm⟩
  · calc m * c.w + l < m * c.w + c.w := by omega
      _ = (m + 1) * c.w := by ring
      _ ≤ c.nmod * c.w := Nat.mul_le_mul_right _ hm
  · simp only [resolve, Nat.mul_comm m, Nat.mul_add_div hw, Nat.div_eq_of_lt hl, Nat.mul_add_mod, Nat.mod_eq_of_lt hl,
      Nat.add_zero]
  · simp only [resolve, Nat.succ_div, Nat.dvd_iff_mod_eq_zero]

/-- Where the table of addresses lists a register. -/
def addressIndex (c : Config) : Space → Nat → Nat
  | .udcAddr, _ => 0
  | .ctrl, _ => 1
  | .udcRam, ix => 2 + ix
  | .char, ix => 9 + ix
  | .flash, ix => 9 + c.w + ix

/-- The blocks of the table do not overlap. -/
theorem addressIndex_inj {c : Config} {sp sp' : Space} {ix ix' : Nat} (hx : indexOk c sp ix = true)
    (hx' : indexOk c sp' ix' = true) (h : addressIndex c sp ix = addressIndex c sp' ix') : sp = sp' ∧ ix = ix' := by
  cases sp <;> cases sp' <;> grind [indexOk, addressIndex]

theorem addresses_getElem? {c : Config} (hok : c.ok = true) {sp : Space} {ix : Nat} (hx : indexOk c sp ix = true) :
    c.rat.addresses[addressIndex c sp ix]? = some (regAddr c sp ix) := by
  obtain ⟨hram, hchar, hflash⟩ := Config.ok_rat_lengths hok
  cases sp <;> simp only [indexOk, decide_eq_true_eq] at hx
  case udcAddr | ctrl => rfl
  all_goals
    simp only [addressIndex, RegTable.addresses, regAddr]
    grind

/-- Settles O37: the table lists every legal register once, each at an index of its own, and has no address twice. -/
theorem registerAddressesAreDistinct : Obligations.RegisterAddressesAreDistinct := by
  intro c sp sp' ix ix' hok hx hx' heq
  have hget := addresses_getElem? hok hx
  have hget' := addresses_getElem? hok hx'
  refine addressIndex_inj hx hx' ?_
  exact (List.getElem?_inj (List.getElem?_eq_some_iff.1 hget).1 (Config.ok_rat_nodup hok)).1 (by rw [hget, hget', heq])

end Sys2Proof.Machine

/-! The invariant (10 R32 to R42, 40 R140): it holds after reset, every kind of edge keeps it, and it leaves no edge without
a next state. -/

namespace Sys2Proof.Machine

/-! ### Updates outside the sequencer and the bus -/

section
variable {s : State}

theorem Inv.tick (h : Inv s) : Inv s.tick := by
  unfold State.tick
  split <;> exact ⟨{ h.seq with }, { h.bus with }⟩

theorem Inv.raiseCmdError (h : Inv s) (e : CmdErr) : Inv (raiseCmdError e s) := ⟨{ h.seq with }, { h.bus with }⟩

theorem Inv.clearLastErr (h : Inv s) : Inv { s with lastErr := .none } := ⟨{ h.seq with }, { h.bus with }⟩

/-- The update of a command keeps the widths of STREQ and FMAP. -/
theorem Inv.commandUpdate (h : Inv s) (i : Instr) : Inv (commandUpdate i s) := by
  cases i with
  | selftest => exact ⟨{ h.seq with streq_length := by simpa [Machine.commandUpdate] using h.seq.streq_length }, { h.bus with }⟩
  | ldfmap => exact ⟨{ h.seq with fmap_length := by simpa [Machine.commandUpdate] using h.seq.fmap_length }, { h.bus with }⟩
  | _ => exact ⟨{ h.seq with }, { h.bus with }⟩

end

/-! ### The chip-selects -/

/-- A chip-select that reads low is an existing line. -/
theorem chipSelect_eq_false_iff {s : State} {m : Nat} : s.chipSelect m = false ↔ s.ceN[m]? = some false := by
  unfold State.chipSelect
  rw [List.getD_eq_getElem?_getD]
  cases s.ceN[m]? <;> simp

/-- While a step of `d`'s cycle is in progress, the lines that are low are those of its modules, in the steps that
select. -/
theorem BusInv.selected_iff {s : State} (h : BusInv s) {d : Desc} (hcur : s.cur = some d) (m : Nat) :
    s.ceN[m]? = some false ↔ s.ph.selects = true ∧ m ∈ d.modules := by
  rw [← chipSelect_eq_false_iff, h.select m, hcur]
  simp

theorem selectModules_selected_iff (mods : List Nat) (ce : List Bool) (m : Nat) :
    (selectModules mods ce)[m]? = some false ↔ (m ∈ mods ∧ m < ce.length) ∨ ce[m]? = some false := by
  rw [selectModules_getElem?]
  split_ifs with h <;> simp [h]

theorem releaseModules_not_selected (c : Config) (m : Nat) : (releaseModules c)[m]? ≠ some false := by
  simp [releaseModules, List.getElem?_replicate]

/-! ### The reset edge -/

theorem inv_resetEdge {s : State} (hok : s.cfg.ok = true) : Inv (resetEdge s) where
  seq := {
    cfg_ok := hok
    streq_length := by simp
    fmap_length := by simp
    ceN_length := by simp
    idle_empty := by simp
    busy_cycle := by simp
    busy_count := by simp
    legal_cur := by simp
    legal_queue := by simp }
  bus := {
    write_strobe := by simp
    read_strobe := by simp
    direction := by simp
    select := fun m => by
      rw [chipSelect_eq_false_iff]
      exact iff_of_false (releaseModules_not_selected s.cfg m) (by simp)
    address := by simp
    data := by simp }

/-- Settles O41: a reset of the reset state is the reset state. -/
theorem resetStateHasTheInvariant : Obligations.ResetStateHasTheInvariant :=
  have hreset : ∀ c : Config, c.ok = true → Inv (State.resetOf c) := fun c hok =>
    inv_resetEdge (s := State.resetOf c) hok
  ⟨hreset, hreset Config.vectors (by decide)⟩

/-! ### The start of a cycle and the end of the last -/

theorem last_phase {p : Phase} (h : p.next? = none) :
    p ≠ .w3 ∧ p ≠ .r4 ∧ p ≠ .r5 ∧ p.turnsRound = false ∧ p.selects = false := by
  cases p <;> simp_all [Phase.next?, Phase.turnsRound, Phase.selects]

/-- In IDLE and in the last step of a cycle the bus is at rest. -/
theorem BusInv.at_rest {s : State} (h : BusInv s) (hn : s.ph.next? = none) :
    s.wrN = true ∧ s.rdN = true ∧ s.dOe = true ∧ ∀ m, s.chipSelect m = true := by
  obtain ⟨hw3, hr4, hr5, hturn, hsel⟩ := last_phase hn
  refine ⟨?_, ?_, ?_, fun m => ?_⟩ <;> rw [← Bool.not_eq_false]
  · rwa [h.write_strobe]
  · rw [h.read_strobe]
    exact not_or.2 ⟨hr4, hr5⟩
  · simp [h.direction, hturn]
  · simp [h.select m, hsel]

theorem first_selects (d : Desc) : d.first.selects = false := by cases d <;> rfl

theorem first_not_strobe (d : Desc) : d.first ≠ .w3 ∧ ¬ (d.first = .r4 ∨ d.first = .r5) := by
  cases d <;> simp [Desc.first]

theorem Inv.startCycle {s : State} (h : Inv s) (hn : s.ph.next? = none) {d : Desc} {q : List Desc}
    (hd : d.legal s.cfg) (hq : ∀ x ∈ q, x.legal s.cfg) : Inv (startCycle d { s with cq := q }) := by
  obtain ⟨hwr, hrd, hoe, hce⟩ := h.bus.at_rest hn
  refine ⟨?seq, ?bus⟩
  case seq => exact {
    cfg_ok := by simpa using h.seq.cfg_ok
    streq_length := by simpa using h.seq.streq_length
    fmap_length := by simpa using h.seq.fmap_length
    ceN_length := by simpa using h.seq.ceN_length
    idle_empty := fun hp => absurd hp (first_ne_idle d)
    busy_cycle := fun _ => ⟨d, rfl, hasStep_first d⟩
    busy_count := fun _ => by simpa using dwell_pos h.seq.cfg_ok (first_ne_idle d)
    legal_cur := fun x hx => by cases hx; simpa using hd
    legal_queue := by simpa using hq }
  case bus => exact {
    write_strobe := by simp [hwr, (first_not_strobe d).1]
    read_strobe := by simpa [hrd, not_or] using (first_not_strobe d).2
    direction := by simp [hoe]
    select := fun m => by simpa [first_selects, State.chipSelect] using hce m
    address := fun x hx => by cases hx; simp
    data := fun a v mods hx => by cases hx; rfl }

theorem Inv.finish {s : State} (h : Inv s) (hn : s.ph.next? = none) (hq : s.cq = []) : Inv (finish s) := by
  obtain ⟨hwr, hrd, hoe, hce⟩ := h.bus.at_rest hn
  refine ⟨?seq, ?bus⟩
  case seq => exact { h.seq with
    idle_empty := fun _ => ⟨rfl, rfl, hq⟩
    busy_cycle := fun hp => absurd rfl hp
    busy_count := fun hp => absurd rfl hp
    legal_cur := fun x hx => by cases hx }
  case bus => exact {
    write_strobe := by simp [hwr]
    read_strobe := by simp [hrd]
    direction := by simp [hoe]
    select := fun m => by simpa [State.chipSelect, Phase.selects] using hce m
    address := fun x hx => by cases hx
    data := fun a v mods hx => by cases hx }

/-- A dwell counts down. -/
theorem Inv.count {s : State} (h : Inv s) (hp : s.ph ≠ .idle) (hc : 1 < s.cnt) :
    Inv { s with cnt := s.cnt - 1 } :=
  have hcount := h.seq.busy_count hp
  ⟨{ h.seq with
    idle_empty := fun hi => absurd hi hp
    busy_count := fun _ => ⟨Nat.le_sub_one_of_lt hc, (Nat.sub_le _ _).trans hcount.2⟩ }, { h.bus with }⟩

/-! ### The next step of a cycle -/

/-- The steps of a write cycle in their order (40 R131). -/
theorem next_of_write {p q : Phase} (hp : p.isWrite = true) (hn : p.next? = some q) :
    (p = .w1 ∧ q = .w2) ∨ (p = .w2 ∧ q = .w3) ∨ (p = .w3 ∧ q = .w4) ∨ (p = .w4 ∧ q = .w5) := by
  cases p <;> simp_all [Phase.isWrite, Phase.next?]

/-- The steps of a read cycle in their order (40 R134). -/
theorem next_of_read {p q : Phase} (hp : p.isRead = true) (hn : p.next? = some q) :
    (p = .r1 ∧ q = .r2) ∨ (p = .r2 ∧ q = .r3) ∨ (p = .r3 ∧ q = .r4) ∨ (p = .r4 ∧ q = .r5) ∨ (p = .r5 ∧ q = .r6) ∨
      (p = .r6 ∧ q = .r7) ∨ (p = .r7 ∧ q = .r8) := by
  cases p <;> simp_all [Phase.isRead, Phase.next?]

section
variable {b : Byte} {d : Desc} {p : Phase} {s : State}

theorem enterStep_write_strobe (hs : d.hasStep s.ph = true) (hnext : s.ph.next? = some p)
    (h : s.wrN = false ↔ s.ph = .w3) : (enterStep b d p s).wrN = false ↔ p = .w3 := by
  cases d with
  | wd a v mods =>
    obtain ⟨hp, rfl⟩ | ⟨hp, rfl⟩ | ⟨hp, rfl⟩ | ⟨hp, rfl⟩ := next_of_write hs hnext <;>
      simp_all [enterStep, performStep]
  | rd a j k =>
    obtain ⟨hp, rfl⟩ | ⟨hp, rfl⟩ | ⟨hp, rfl⟩ | ⟨hp, rfl⟩ | ⟨hp, rfl⟩ | ⟨hp, rfl⟩ | ⟨hp, rfl⟩ :=
      next_of_read hs hnext <;> simp_all [enterStep, performStep]

theorem enterStep_read_strobe (hs : d.hasStep s.ph = true) (hnext : s.ph.next? = some p)
    (h : s.rdN = false ↔ (s.ph = .r4 ∨ s.ph = .r5)) :
    (enterStep b d p s).rdN = false ↔ (p = .r4 ∨ p = .r5) := by
  cases d with
  | wd a v mods =>
    obtain ⟨hp, rfl⟩ | ⟨hp, rfl⟩ | ⟨hp, rfl⟩ | ⟨hp, rfl⟩ := next_of_write hs hnext <;>
      simp_all [enterStep, performStep]
  | rd a j k =>
    obtain ⟨hp, rfl⟩ | ⟨hp, rfl⟩ | ⟨hp, rfl⟩ | ⟨hp, rfl⟩ | ⟨hp, rfl⟩ | ⟨hp, rfl⟩ | ⟨hp, rfl⟩ :=
      next_of_read hs hnext <;> simp_all [enterStep, performStep]

/-- The lines that are low after a later step of the cycle of `d`: W2 and R3 lower those of its modules, W5 and R7 raise
all. -/
theorem enterStep_selected_iff (hs : d.hasStep s.ph = true) (hnext : s.ph.next? = some p)
    (hlegal : ∀ m ∈ d.modules, m < s.ceN.length)
    (h : ∀ m : Nat, s.ceN[m]? = some false ↔ s.ph.selects = true ∧ m ∈ d.modules) (m : Nat) :
    (enterStep b d p s).ceN[m]? = some false ↔ p.selects = true ∧ m ∈ d.modules := by
  have hm := h m
  have hl := hlegal m
  have hrelease := releaseModules_not_selected s.cfg m
  cases d with
  | wd a v mods =>
    obtain ⟨hp, rfl⟩ | ⟨hp, rfl⟩ | ⟨hp, rfl⟩ | ⟨hp, rfl⟩ := next_of_write hs hnext <;>
      simp_all [enterStep, performStep, Phase.selects, Desc.modules, selectModules_selected_iff]
  | rd a n k =>
    obtain ⟨hp, rfl⟩ | ⟨hp, rfl⟩ | ⟨hp, rfl⟩ | ⟨hp, rfl⟩ | ⟨hp, rfl⟩ | ⟨hp, rfl⟩ | ⟨hp, rfl⟩ :=
      next_of_read hs hnext <;> simp_all [enterStep, performStep, Phase.selects, Desc.modules, selectModules_selected_iff]

theorem enterStep_address_data (hs : d.hasStep s.ph = true) (hnext : s.ph.next? = some p) :
    (enterStep b d p s).aOut = s.aOut ∧ (enterStep b d p s).dOut = s.dOut := by
  cases d with
  | wd a v mods =>
    obtain ⟨-, rfl⟩ | ⟨-, rfl⟩ | ⟨-, rfl⟩ | ⟨-, rfl⟩ := next_of_write hs hnext <;>
      simp [enterStep, performStep]
  | rd a j k =>
    obtain ⟨-, rfl⟩ | ⟨-, rfl⟩ | ⟨-, rfl⟩ | ⟨-, rfl⟩ | ⟨-, rfl⟩ | ⟨-, rfl⟩ | ⟨-, rfl⟩ :=
      next_of_read hs hnext <;> simp [enterStep, performStep]

theorem Inv.enterStep (h : Inv s) (hcur : s.cur = some d) (hs : d.hasStep s.ph = true) (hnext : s.ph.next? = some p) :
    Inv (enterStep b d p s) := by
  obtain ⟨haddr, hdata⟩ := enterStep_address_data (b := b) hs hnext
  have hlegal := h.seq.legal_cur d hcur
  refine ⟨?seq, ?bus⟩
  case seq => exact {
    cfg_ok := by simpa using h.seq.cfg_ok
    streq_length := by simpa using h.seq.streq_length
    fmap_length := by simpa using h.seq.fmap_length
    ceN_length := by simpa [Machine.enterStep] using performStep_ceN_length (s := s) h.seq.ceN_length
    idle_empty := fun hp => absurd hp (next?_ne_idle hnext)
    busy_cycle := fun _ => ⟨d, rfl, hasStep_next hs hnext⟩
    busy_count := fun _ => by simpa using dwell_pos h.seq.cfg_ok (next?_ne_idle hnext)
    legal_cur := fun x hx => by cases hx; simpa using hlegal
    legal_queue := by simpa using h.seq.legal_queue }
  case bus => exact {
    write_strobe := enterStep_write_strobe hs hnext h.bus.write_strobe
    read_strobe := enterStep_read_strobe hs hnext h.bus.read_strobe
    direction := enterStep_direction hs hnext h.bus.direction
    select := fun m => by
      rw [chipSelect_eq_false_iff, enterStep_selected_iff hs hnext
        (fun j hj => h.seq.ceN_length ▸ hlegal.2 j hj) (h.bus.selected_iff hcur) m]
      simp
    address := fun x hx => by cases hx; exact haddr.trans (h.bus.address d hcur)
    data := fun a v mods hx => by cases hx; exact hdata.trans (h.bus.data a v mods hcur) }

end

/-! ### The descriptors a command emits -/

theorem legal_singleton {c : Config} {a v : Byte} {m : Nat} (h : m < c.nmod) : (Desc.wd a v [m]).legal c := by
  simpa [Desc.legal, Desc.modules] using h

theorem legal_allMods {c : Config} (hok : c.ok = true) (a v : Byte) : (Desc.wd a v (List.range c.nmod)).legal c :=
  ⟨allMods_ne_nil hok, fun _ hm => List.mem_range.1 hm⟩

theorem expandW_legal {c : Config} (hok : c.ok = true) {tgt : Target} (ht : targetOk c tgt = true) (a v : Byte) :
    ∀ d ∈ expandW c a v tgt, d.legal c := by
  cases tgt with
  | one m => simpa using legal_singleton (of_decide_eq_true ht)
  | all =>
    cases hb : c.bcast with
    | true => simpa [expandW_all_of_bcast hb] using legal_allMods hok a v
    | false =>
      rw [expandW_all_of_not_bcast hb, List.forall_mem_map]
      exact fun m hm => legal_singleton (List.mem_range.1 hm)

theorem globalWrite_legal {s : State} (hok : s.cfg.ok = true) : ∀ d ∈ globalWrite s, d.legal s.cfg := by
  rw [globalWrite_eq]
  split_ifs
  · simpa using legal_allMods hok _ _
  · rw [List.forall_mem_map]
    exact fun m hm => legal_singleton (List.mem_range.1 hm)

theorem firstFailing_eq_none_iff {l : List (Bool × CmdErr)} : firstFailing l = none ↔ ∀ x ∈ l, x.1 = true := by
  induction l with
  | nil => simp [firstFailing]
  | cons x l ih =>
    obtain ⟨b, e⟩ := x
    cases b <;> simp [firstFailing, ih]

/-- A command that is not rejected passes all its checks. -/
theorem checks_of_not_rejected {i : Instr} {c : Config} (hc : rejectionCode c i = .none) :
    ∀ x ∈ commandChecks i c, x.1 = true :=
  firstFailing_eq_none_iff.1 (by rw [firstFailing_commandChecks, if_pos hc])

/-- The one module of a command that takes no other target. -/
theorem targetNumber_lt {c : Config} {tgt : Target} (h : singleOk c tgt = true) : targetNumber tgt < c.nmod := by
  cases tgt with
  | one m => exact of_decide_eq_true h
  | all => cases h

theorem commandEmits_legal {i : Instr} {s : State} (hok : s.cfg.ok = true) (hc : rejectionCode s.cfg i = .none) :
    ∀ d ∈ commandEmits i s, d.legal s.cfg := by
  have hchecks := checks_of_not_rejected hc
  cases i with
  | wrreg | wrlog =>
    simp only [commandChecks, List.forall_mem_cons] at hchecks
    exact expandW_legal hok hchecks.1 _ _
  | rdreg | rdtest =>
    simp only [commandChecks, List.forall_mem_cons] at hchecks
    simpa [commandEmits, Desc.legal, Desc.modules] using targetNumber_lt hchecks.1
  | selftest =>
    simp only [commandChecks, List.forall_mem_cons] at hchecks
    simpa [commandEmits] using legal_singleton (targetNumber_lt hchecks.1)
  | wrpos sp pos =>
    simp only [commandChecks, List.forall_mem_cons, decide_eq_true_eq] at hchecks
    simpa [commandEmits] using legal_singleton (resolve_range hok hchecks.2.1).1
  | setbri | setflen | setblen | setclr => exact globalWrite_legal hok
  | ldfmap => simp [commandEmits]
  | flashmap =>
    rw [commandEmits, List.forall_mem_map]
    exact fun p hp => legal_singleton (resolve_range hok (List.mem_range.1 hp)).1

/-- The acceptance edge of a command that starts keeps the invariant. -/
theorem Inv.commandStart {s : State} (h : Inv s) (hidle : s.ph = .idle) {i : Instr}
    (hc : rejectionCode s.cfg i = .none) : Inv (commandStart i s) := by
  have h1 : Inv (Machine.commandUpdate i { s with lastErr := .none }) := h.clearLastErr.commandUpdate i
  have hlegal := commandEmits_legal (i := i) h1.seq.cfg_ok (by simpa using hc)
  obtain ⟨-, heq⟩ | ⟨-, d, q, hemits, heq⟩ := commandStart_cases i h.seq.cfg_ok <;> rw [heq]
  · exact h1
  · rw [hemits, List.forall_mem_cons] at hlegal
    exact h1.startCycle (by simp [hidle, Phase.next?]) hlegal.1 hlegal.2

/-- Every kind of edge keeps the invariant. -/
theorem Inv.step {s s' : State} (h : Inv s) (hstep : step s = .next s') : Inv s' := by
  cases edge_of_step hstep with
  | reset => exact inv_resetEdge h.tick.seq.cfg_ok
  | silent => exact h.tick
  | rejects => exact h.tick.raiseCmdError _
  | starts i ha _ hc => exact h.tick.commandStart (by simpa using ha.idle) (by simpa using hc)
  | counts d _ hs _ hcnt => simpa using h.tick.count (by simpa using hasStep_ne_idle hs) (by simpa using hcnt)
  | enters d p _ hs hcur _ hnext =>
    exact h.tick.enterStep (by simpa using hcur) (by simpa using hs) (by simpa using hnext)
  | continues d d' q _ _ _ _ hlast hcq =>
    have hlegal := h.seq.legal_queue
    rw [hcq, List.forall_mem_cons] at hlegal
    exact h.tick.startCycle (by simpa using hlast) (by simpa using hlegal.1) (by simpa using hlegal.2)
  | finishes d _ _ _ _ hlast hcq => exact h.tick.finish (by simpa using hlast) (by simpa using hcq)

/-- Settles O42, by the kinds of edge. -/
theorem everyStepKeepsTheInvariant : Obligations.EveryStepKeepsTheInvariant := fun _ _ h hstep => h.step hstep

/-- Settles O43: an accepted command is started or rejected, and a busy sequencer is in a step of its cycle. -/
theorem everyEdgeHasANextState : Obligations.EveryEdgeHasANextState := by
  intro s h
  rw [step_eq, if_neg (by simp [h.seq.cfg_ok])]
  split_ifs with hrst hidle
  · exact ⟨_, rfl⟩
  · unfold acceptWord
    split
    · exact ⟨_, exec_ready _ ⟨h.tick.seq.cfg_ok, by simpa using hidle⟩⟩
    · exact ⟨_, rfl⟩
  · exact ⟨_, rfl⟩
  · obtain ⟨d, hcur, hs⟩ := h.seq.busy_cycle hidle
    exact advance_next (d := d) (by simpa using hcur) (by simpa using hs)

end Sys2Proof.Machine

/-! The timing contract of the bus (40 R140), which registers of the shadow an edge changes (10 R27 to R39), and the tables
of the two cycles as equations of the step (40 R131, R134). -/

namespace Sys2Proof.Machine

/-! ### The bus outputs of a state with the invariant -/

theorem w3_selects {p : Phase} (h : p = .w3) : p.selects = true := by
  subst h; rfl

theorem strobe_of_read {p : Phase} (h : p = .r4 ∨ p = .r5) :
    p ≠ .idle ∧ p ≠ .w3 ∧ p.isWrite = false ∧ p.selects = true ∧ p.turnsRound = true := by
  obtain rfl | rfl := h <;> decide

/-- In a step that selects, the lines that are low are those of the modules of the cycle in progress. -/
theorem Inv.selected_cycle {s : State} (h : Inv s) (hsel : s.ph.selects = true) :
    ∃ d, s.cur = some d ∧ d.hasStep s.ph = true ∧ d.legal s.cfg ∧ ∀ m : Nat, s.ceN[m]? = some false ↔ m ∈ d.modules := by
  have hbusy : s.ph ≠ .idle := fun hi => by rw [hi] at hsel; cases hsel
  obtain ⟨d, hcur, hs⟩ := h.seq.busy_cycle hbusy
  exact ⟨d, hcur, hs, h.seq.legal_cur d hcur, fun m => by simp [h.bus.selected_iff hcur, hsel]⟩

/-- R140 (1): the strobes are not both low. -/
theorem Inv.strobes_apart {s : State} (h : Inv s) : ¬ (s.wrN = false ∧ s.rdN = false) := by
  rintro ⟨hwr, hrd⟩
  exact (strobe_of_read (h.bus.read_strobe.1 hrd)).2.1 (h.bus.write_strobe.1 hwr)

/-- R140 (2): WR_N is low in W3 alone, with a module selected. -/
theorem Inv.write_strobe_selected {s : State} (h : Inv s) (hwr : s.wrN = false) :
    s.ph = .w3 ∧ ∃ m < s.cfg.nmod, s.ceN[m]? = some false := by
  have hph := h.bus.write_strobe.1 hwr
  obtain ⟨d, -, -, ⟨hne, hlt⟩, hsel⟩ := h.selected_cycle (w3_selects hph)
  obtain ⟨m, hm⟩ := List.exists_mem_of_ne_nil _ hne
  exact ⟨hph, m, hlt m hm, (hsel m).2 hm⟩

/-- R140 (3): RD_N is low in R4 and R5 alone, with the data pins inputs and exactly one module selected. -/
theorem Inv.read_strobe_selected {s : State} (h : Inv s) (hrd : s.rdN = false) :
    (s.ph = .r4 ∨ s.ph = .r5) ∧ s.dOe = false ∧
      ∃ m < s.cfg.nmod, s.ceN[m]? = some false ∧ ∀ j : Nat, s.ceN[j]? = some false → j = m := by
  have hph := h.bus.read_strobe.1 hrd
  obtain ⟨-, -, hwrite, hsel, hturn⟩ := strobe_of_read hph
  obtain ⟨d, -, hs, ⟨-, hlt⟩, hlow⟩ := h.selected_cycle hsel
  refine ⟨hph, h.bus.direction.2 hturn, ?_⟩
  cases d with
  | wd a v mods => exact absurd hs (by simp [Desc.hasStep, hwrite])
  | rd a m k =>
    have hone : ∀ j : Nat, s.ceN[j]? = some false ↔ j = m := fun j => (hlow j).trans List.mem_singleton
    exact ⟨m, hlt m (List.mem_singleton.2 rfl), (hone m).2 rfl, fun j => (hone j).1⟩

/-- R140 (6): a module is selected in W2 to W4 and R3 to R6 alone. -/
theorem Inv.selects_of_selected {s : State} (h : Inv s) {m : Nat} (hm : s.ceN[m]? = some false) :
    s.ph.selects = true :=
  ((h.bus.select m).1 (chipSelect_eq_false_iff.2 hm)).1

/-- R140 (7): in a write cycle the modules selected are its set. -/
theorem Inv.write_selects {s : State} (h : Inv s) {a v : Byte} {mods : List Nat} (hcur : s.cur = some (.wd a v mods))
    (hsel : s.ph.selects = true) (m : Nat) : s.ceN[m]? = some false ↔ m ∈ mods := by
  simp [h.bus.selected_iff hcur, hsel]

section
variable {s s' : State}

theorem address_or_data_ne (he : BusEdge s s') (h : s'.aOut ≠ s.aOut ∨ s'.dOut ≠ s.dOut) :
    s.ph ≠ s'.ph ∧ (s'.ph = .w1 ∨ s'.ph = .r1) := by
  obtain ha | hd := h
  · exact aOut_ne he ha
  · obtain ⟨hne, hw1⟩ := dOut_ne he hd
    exact ⟨hne, .inl hw1⟩

/-- R140 (4): an edge after which a module is selected leaves the address and the data. -/
theorem address_data_held (hinv : Inv s') (h : step s = .next s') {m : Nat} (hm : s'.ceN[m]? = some false) :
    s'.aOut = s.aOut ∧ s'.dOut = s.dOut := by
  have hsel := hinv.selects_of_selected hm
  cases hrst : s.pins.rst with
  | true =>
    rw [step_of_reset h hrst] at hsel
    cases hsel
  | false =>
    by_contra hne
    obtain ⟨-, hp | hp⟩ := address_or_data_ne (busEdge_of_step h hrst) (not_and_or.1 hne) <;> rw [hp] at hsel <;>
      cases hsel

/-- R140 (8): the strobes move at edges that enter other steps than those at which the chip-selects move. -/
theorem strobe_ce_apart (he : BusEdge s s') : ¬ ((s'.wrN ≠ s.wrN ∨ s'.rdN ≠ s.rdN) ∧ s'.ceN ≠ s.ceN) := by
  rintro ⟨hstrobe, hce⟩
  have hto : s'.ph = .w3 ∨ s'.ph = .w4 ∨ s'.ph = .r4 ∨ s'.ph = .r6 := by
    obtain hwr | hrd := hstrobe
    · obtain ⟨-, ⟨hp, -⟩ | ⟨hp, -⟩⟩ := wrN_ne he hwr <;> simp [hp]
    · obtain ⟨-, ⟨hp, -⟩ | ⟨hp, -⟩⟩ := rdN_ne he hrd <;> simp [hp]
  obtain ⟨-, hp | hp | hp | hp⟩ := ceN_ne he hce <;> simp [hp] at hto

/-- R140 (8): so do the chip-selects and D_OE. -/
theorem ce_dOe_apart (he : BusEdge s s') : ¬ (s'.ceN ≠ s.ceN ∧ s'.dOe ≠ s.dOe) := by
  rintro ⟨hce, hoe⟩
  have hto : s'.ph = .r2 ∨ s'.ph = .r8 := (dOe_ne he hoe).2.imp And.left And.left
  obtain ⟨-, hp | hp | hp | hp⟩ := ceN_ne he hce <;> simp [hp] at hto

end

/-- Settles O44: clauses (1) to (3) and (5) to (7) from the invariant of the state after the edge, (4) and (8) from the
steps at which each register moves. -/
theorem busOutputsObeyTheTimingContract : Obligations.BusOutputsObeyTheTimingContract := by
  intro s s' hinv h
  have hinv' := hinv.step h
  refine ⟨hinv'.strobes_apart, hinv'.write_strobe_selected, hinv'.read_strobe_selected,
    fun ⟨m, hm⟩ => address_data_held hinv' h hm, fun hrst hne => address_or_data_ne (busEdge_of_step h hrst) hne,
    hinv'.bus.direction.1, fun ⟨m, hm⟩ => hinv'.selects_of_selected hm, fun a v mods => hinv'.write_selects,
    fun hrst => ?_⟩
  have he := busEdge_of_step h hrst
  exact ⟨strobe_ce_apart he, ce_dOe_apart he⟩

/-! ### The shadow, the bitmap, RDATA and TR -/

@[simp] theorem startCommand_cwg (l : List Desc) (s : State) : (startCommand l s).cwg = s.cwg := by cases l <;> simp
@[simp] theorem startCommand_streq (l : List Desc) (s : State) : (startCommand l s).streq = s.streq := by cases l <;> simp
@[simp] theorem startCommand_fmap (l : List Desc) (s : State) : (startCommand l s).fmap = s.fmap := by cases l <;> simp

/-- The shadow and the bitmap after the start of a command are those its update leaves. -/
theorem commandStart_shadow (i : Instr) (s : State) :
    (commandStart i s).cwg = (commandUpdate i s).cwg ∧ (commandStart i s).streq = (commandUpdate i s).streq ∧
      (commandStart i s).fmap = (commandUpdate i s).fmap := by
  cases i <;> simp [commandStart, commandUpdate]

/-- Without a reset the shadow and the bitmap stay, unless the edge starts a command; then they are what its update
leaves. -/
theorem shadow_of_step {s s' : State} (h : step s = .next s') (hrst : s.pins.rst = false) :
    (s'.cwg = s.cwg ∧ s'.streq = s.streq ∧ s'.fmap = s.fmap) ∨
    ∃ w i, Accepts s w ∧ decode w = .ok i ∧ s'.cwg = (commandUpdate i s.tick).cwg ∧
      s'.streq = (commandUpdate i s.tick).streq ∧ s'.fmap = (commandUpdate i s.tick).fmap := by
  cases edge_of_step h with
  | reset hr => simp [hr] at hrst
  | starts i ha hd => exact .inr ⟨_, i, ha, hd, commandStart_shadow i s.tick⟩
  | silent | rejects | counts | enters | continues | finishes => exact .inl (by simp)

/-- Without a reset a field `f` of CWG changes only at the start of a command whose update changes it. -/
theorem command_of_cwg_ne {α : Type} {f : Cwg → α} {s s' : State} (h : step s = .next s') (hrst : s.pins.rst = false)
    (hne : f s'.cwg ≠ f s.cwg) :
    ∃ w i, Accepts s w ∧ decode w = .ok i ∧ f (commandUpdate i s.tick).cwg ≠ f s.tick.cwg ∧
      s'.cwg = (commandUpdate i s.tick).cwg := by
  obtain ⟨hcwg, -⟩ | ⟨w, i, ha, hd, hcwg, -⟩ := shadow_of_step h hrst
  · exact absurd (congrArg f hcwg) hne
  · exact ⟨w, i, ha, hd, by simpa [← hcwg] using hne, hcwg⟩

/-! Each item of the shadow has one command that changes it. -/

section
variable {i : Instr} {s : State}

theorem commandUpdate_br_ne (h : (commandUpdate i s).cwg.br ≠ s.cwg.br) :
    ∃ br, i = .setbri br ∧ (commandUpdate i s).cwg = { s.cwg with br := br } := by
  cases i <;> simp_all [commandUpdate]

theorem commandUpdate_fe_ne (h : (commandUpdate i s).cwg.fe ≠ s.cwg.fe) :
    ∃ v, i = .setflen v ∧ (commandUpdate i s).cwg = { s.cwg with fe := v } := by
  cases i <;> simp_all [commandUpdate]

theorem commandUpdate_be_ne (h : (commandUpdate i s).cwg.be ≠ s.cwg.be) :
    ∃ v, i = .setblen v ∧ (commandUpdate i s).cwg = { s.cwg with be := v } := by
  cases i <;> simp_all [commandUpdate]

theorem commandUpdate_cl_ne (h : (commandUpdate i s).cwg.cl ≠ s.cwg.cl) :
    ∃ v, i = .setclr v ∧ (commandUpdate i s).cwg = { s.cwg with cl := v } := by
  cases i <;> simp_all [commandUpdate]

theorem commandUpdate_streq_ne (h : (commandUpdate i s).streq ≠ s.streq) : ∃ t v, i = .selftest t v := by
  cases i <;> simp_all [commandUpdate]

theorem commandUpdate_fmap_ne (h : (commandUpdate i s).fmap ≠ s.fmap) : ∃ k dt, i = .ldfmap k dt := by
  cases i <;> simp_all [commandUpdate]

end

/-- An edge that changes RDATA or TR is the sample step of the read in progress. -/
theorem sample_of_change {s s' : State} (h : step s = .next s') (hrst : s.pins.rst = false)
    (hne : ¬ (s'.rdata = s.rdata ∧ s'.tr = s.tr)) :
    ∃ a m k, s' = enterStep s.pins.dIn (.rd a m k) .r5 s.tick := by
  have hedge : s.ph = .r4 ∧ s'.ph = .r5 := by
    by_contra hn
    exact hne (sampled_of_not_sample_edge h hrst hn)
  obtain ⟨a, m, k, -, heq⟩ := sample_edge h hrst hedge.1 hedge.2
  exact ⟨a, m, k, heq⟩

/-- Settles O50: the update of a command writes one item at most, and RDATA and TR are written by a sample step alone. -/
theorem registersChangeOnlyByTheirOwnCommands : Obligations.RegistersChangeOnlyByTheirOwnCommands := by
  intro s s' h hrst
  refine ⟨?br, ?fe, ?be, ?cl, ?streq, ?fmap, ?rdata, ?tr⟩
  case rdata =>
    intro hne
    obtain ⟨a, m, k, rfl⟩ := sample_of_change h hrst fun hs => hne hs.1
    exact ⟨rfl, (enterStep_r5_rd ..).1⟩
  case tr =>
    intro hne
    obtain ⟨a, m, k, rfl⟩ := sample_of_change h hrst fun hs => hne hs.2
    have htr := (enterStep_r5_rd s.pins.dIn a m k s.tick).2
    cases k with
    | raw => exact absurd (htr.trans (by simp)) hne
    | test => exact ⟨rfl, by simp [htr], a, m, rfl⟩
  case br =>
    intro hne
    obtain ⟨w, i, ha, hd, hi, heq⟩ := command_of_cwg_ne h hrst hne
    obtain ⟨br, rfl, hupdate⟩ := commandUpdate_br_ne hi
    exact ⟨w, br, ha, hd, heq.trans (by simpa using hupdate)⟩
  case fe =>
    intro hne
    obtain ⟨w, i, ha, hd, hi, heq⟩ := command_of_cwg_ne h hrst hne
    obtain ⟨v, rfl, hupdate⟩ := commandUpdate_fe_ne hi
    exact ⟨w, v, ha, hd, heq.trans (by simpa using hupdate)⟩
  case be =>
    intro hne
    obtain ⟨w, i, ha, hd, hi, heq⟩ := command_of_cwg_ne h hrst hne
    obtain ⟨v, rfl, hupdate⟩ := commandUpdate_be_ne hi
    exact ⟨w, v, ha, hd, heq.trans (by simpa using hupdate)⟩
  case cl =>
    intro hne
    obtain ⟨w, i, ha, hd, hi, heq⟩ := command_of_cwg_ne h hrst hne
    obtain ⟨v, rfl, hupdate⟩ := commandUpdate_cl_ne hi
    exact ⟨w, v, ha, hd, heq.trans (by simpa using hupdate)⟩
  case streq =>
    intro hne
    obtain ⟨-, hstreq, -⟩ | ⟨w, i, ha, hd, -, hstreq, -⟩ := shadow_of_step h hrst
    · exact absurd hstreq hne
    · obtain ⟨t, v, rfl⟩ := commandUpdate_streq_ne (i := i) (s := s.tick) (by simpa [hstreq] using hne)
      exact ⟨w, t, v, ha, hd⟩
  case fmap =>
    intro hne
    obtain ⟨-, -, hfmap⟩ | ⟨w, i, ha, hd, -, -, hfmap⟩ := shadow_of_step h hrst
    · exact absurd hfmap hne
    · obtain ⟨k, dt, rfl⟩ := commandUpdate_fmap_ne (i := i) (s := s.tick) (by simpa [hfmap] using hne)
      exact ⟨w, k, dt, ha, hd⟩

/-! ### The tables of the two cycles -/

section
variable {s : State} {d : Desc}

theorem step_enters (hok : s.cfg.ok = true) (hrst : s.pins.rst = false) (hcur : s.cur = some d)
    (hs : d.hasStep s.ph = true) (hcnt : s.cnt ≤ 1) {p : Phase} (hnext : s.ph.next? = some p) :
    step s = .next (enterStep s.pins.dIn d p s.tick) := by
  rw [step_busy hok hrst (hasStep_ne_idle hs)]
  simp [advance, hcur, hs, Nat.not_lt.2 hcnt, hnext]

theorem step_continues (hok : s.cfg.ok = true) (hrst : s.pins.rst = false) (hcur : s.cur = some d)
    (hs : d.hasStep s.ph = true) (hcnt : s.cnt ≤ 1) (hlast : s.ph.next? = none) {d' : Desc} {q : List Desc}
    (hcq : s.cq = d' :: q) : step s = .next (startCycle d' { s.tick with cq := q }) := by
  rw [step_busy hok hrst (hasStep_ne_idle hs)]
  simp [advance, hcur, hs, Nat.not_lt.2 hcnt, hlast, hcq]

theorem step_finishes (hok : s.cfg.ok = true) (hrst : s.pins.rst = false) (hcur : s.cur = some d)
    (hs : d.hasStep s.ph = true) (hcnt : s.cnt ≤ 1) (hlast : s.ph.next? = none) (hcq : s.cq = []) :
    step s = .next (finish s.tick) := by
  rw [step_busy hok hrst (hasStep_ne_idle hs)]
  simp [advance, hcur, hs, Nat.not_lt.2 hcnt, hlast, hcq]

/-- After the last step of a cycle the next waiting cycle starts at the same edge, or the sequencer becomes IDLE. -/
theorem step_after_last (hok : s.cfg.ok = true) (hrst : s.pins.rst = false) (hcur : s.cur = some d)
    (hs : d.hasStep s.ph = true) (hcnt : s.cnt = 1) (hlast : s.ph.next? = none) :
    (s.cq = [] → step s = .next { s.tick with ph := .idle, cnt := 0, cur := none }) ∧
    (∀ a v mods q, s.cq = .wd a v mods :: q → step s = .next { s.tick with
      ph := .w1, cnt := s.cfg.nAS, cur := some (.wd a v mods), cq := q, aOut := a, dOut := v }) ∧
    (∀ a m k q, s.cq = .rd a m k :: q → step s = .next { s.tick with
      ph := .r1, cnt := s.cfg.nAS, cur := some (.rd a m k), cq := q, aOut := a }) := by
  refine ⟨fun hcq => step_finishes hok hrst hcur hs hcnt.le hlast hcq, fun a v mods q hcq => ?_, fun a m k q hcq => ?_⟩ <;>
  · rw [step_continues hok hrst hcur hs hcnt.le hlast hcq]
    simp [startCycle, driveBus, Desc.first, Phase.dwell]

end

/-- Settles O38: each step of the table is `enterStep` at the phase it follows; W5 is the last. -/
theorem writeCycleFollowsItsTable : Obligations.WriteCycleFollowsItsTable := by
  intro s a v mods hok hrst hcur hcnt
  have hlast : s.ph = .w5 → _ := fun hp =>
    step_after_last hok hrst hcur (by rw [hp]; rfl) hcnt (by rw [hp]; rfl)
  refine ⟨?_, ?_, ?_, ?_, fun hp => (hlast hp).1, fun a' v' mods' q hp => (hlast hp).2.1 a' v' mods' q,
    fun a' m k q hp => (hlast hp).2.2 a' m k q⟩
  all_goals
    intro hp
    rw [step_enters hok hrst hcur (by rw [hp]; rfl) hcnt.le (by rw [hp]; rfl)]
    simp [enterStep, performStep, Phase.dwell, hcur, releaseModules]

/-- Settles O39: likewise for a read; R5 samples, and R8 is the last. -/
theorem readCycleFollowsItsTable : Obligations.ReadCycleFollowsItsTable := by
  intro s a m k hok hrst hcur hcnt
  have hlast : s.ph = .r8 → _ := fun hp =>
    step_after_last hok hrst hcur (by rw [hp]; rfl) hcnt (by rw [hp]; rfl)
  refine ⟨?_, ?_, ?_, ?raw, ?test, ?_, ?_, ?_, fun hp => (hlast hp).1,
    fun a' v' mods' q hp => (hlast hp).2.1 a' v' mods' q, fun a' m' k' q hp => (hlast hp).2.2 a' m' k' q⟩
  case raw | test =>
    rintro hp rfl
    rw [step_enters hok hrst hcur (by rw [hp]; rfl) hcnt.le (by rw [hp]; rfl)]
    simp [enterStep, performStep, sample, Phase.dwell, hcur]
  all_goals
    intro hp
    rw [step_enters hok hrst hcur (by rw [hp]; rfl) hcnt.le (by rw [hp]; rfl)]
    simp [enterStep, performStep, Phase.dwell, hcur, releaseModules, selectModules]

end Sys2Proof.Machine

/-! Runs of the sequencer (40 R133, R136, R137, R139, 70 R293). Two facts carry them: the edges a busy block still needs
fall by one at each edge, and the writes and samples still to come are used up in order. -/

namespace Sys2Proof.Machine

/-! ### Runs -/

theorem runEdges_succ {s s' : State} (h : step s = .next s') (n : Nat) :
    runEdges (n + 1) s = (runEdges n s').map fun r => (r.1, busEvent s s' ++ r.2) := by
  rw [runEdges, h]

theorem runEdges_one {s s' : State} (h : step s = .next s') : runEdges 1 s = some (s', busEvent s s') := by
  rw [← Nat.zero_add 1, runEdges_succ h]
  simp [runEdges]

/-- A run of `m + n` edges is one of `m` edges and then one of `n`. -/
theorem runEdges_add {m n : Nat} {s t u : State} {ev ev' : List Event} (hm : runEdges m s = some (t, ev))
    (hn : runEdges n t = some (u, ev')) : runEdges (m + n) s = some (u, ev ++ ev') := by
  induction m generalizing s ev with
  | zero => cases hm; simpa using hn
  | succ m ih =>
    cases hstep : step s with
    | next s' =>
      rw [runEdges_succ hstep, Option.map_eq_some_iff] at hm
      obtain ⟨⟨t', ev₁⟩, hrun, heq⟩ := hm
      cases heq
      rw [Nat.add_right_comm, runEdges_succ hstep, ih hrun]
      simp
    | fault | refused => simp [runEdges, hstep] at hm

/-! ### Schedules without a reset -/

theorem NoReset.mono {m n : Nat} {s : State} (h : NoReset n s) (hmn : m ≤ n) : NoReset m s :=
  fun e he => h e ((List.take_subset_take_left _ hmn) he)

theorem NoReset.rst {n : Nat} {s : State} (h : NoReset (n + 1) s) : s.pins.rst = false := by
  unfold State.pins
  split
  · rfl
  · rename_i e rest hin
    exact h e (by simp [hin])

theorem NoReset.drop {m n : Nat} {s s' : State} (h : NoReset (m + n) s) (hin : s'.inputs = s.inputs.drop m) :
    NoReset n s' := by
  intro e he
  rw [hin, List.take_drop] at he
  exact h e (List.mem_of_mem_drop he)

theorem NoReset.tail {n : Nat} {s s' : State} (h : NoReset (n + 1) s) (hin : s'.inputs = s.inputs.tail) :
    NoReset n s' :=
  NoReset.drop (Nat.add_comm n 1 ▸ h) (by rw [hin, List.drop_one])

@[simp] theorem startCommand_inputs (l : List Desc) (s : State) : (startCommand l s).inputs = s.inputs := by
  cases l <;> simp

@[simp] theorem commandUpdate_inputs (i : Instr) (s : State) : (commandUpdate i s).inputs = s.inputs := by
  cases i <;> rfl

@[simp] theorem commandStart_inputs (i : Instr) (s : State) : (commandStart i s).inputs = s.inputs := by
  simp [commandStart]

/-- Every edge uses up one listed input. -/
theorem step_inputs {s s' : State} (h : step s = .next s') : s'.inputs = s.inputs.tail := by
  cases edge_of_step h with
  | reset | silent | rejects | starts | counts | enters | continues | finishes => simp

theorem runEdges_inputs {n : Nat} {s t : State} {ev : List Event} (h : runEdges n s = some (t, ev)) :
    t.inputs = s.inputs.drop n := by
  induction n generalizing s ev with
  | zero => cases h; rfl
  | succ n ih =>
    cases hstep : step s with
    | next s' =>
      rw [runEdges_succ hstep, Option.map_eq_some_iff] at h
      obtain ⟨⟨t', ev'⟩, hrun, heq⟩ := h
      cases heq
      rw [ih hrun, step_inputs hstep, List.drop_tail]
    | fault | refused => simp [runEdges, hstep] at h

/-! ### The edges still to come -/

/-- The edges of the later steps of a cycle (the dwells of 40 R131 and R134). -/
def Phase.edgesAfter (c : Config) : Phase → Nat
  | .idle | .w5 | .r8 => 0
  | .w1 => c.nCW + c.nWP + c.nWH + c.nAH
  | .w2 => c.nWP + c.nWH + c.nAH
  | .w3 => c.nWH + c.nAH
  | .w4 => c.nAH
  | .r1 => c.nDZ + c.nCW + c.nRS + 1 + c.nWH + c.nDZ + c.nAH
  | .r2 => c.nCW + c.nRS + 1 + c.nWH + c.nDZ + c.nAH
  | .r3 => c.nRS + 1 + c.nWH + c.nDZ + c.nAH
  | .r4 => 1 + c.nWH + c.nDZ + c.nAH
  | .r5 => c.nWH + c.nDZ + c.nAH
  | .r6 => c.nDZ + c.nAH
  | .r7 => c.nAH

/-- How many edges a list of cycles lasts (40 R139). -/
def totalEdges (c : Config) (l : List Desc) : Nat := (l.map (Desc.edges c)).sum

/-- How many edges the block stays busy if no reset comes: the rest of the dwell, of the cycle, and the waiting cycles. -/
def State.remaining (s : State) : Nat := s.cnt + s.ph.edgesAfter s.cfg + totalEdges s.cfg s.cq

@[simp] theorem totalEdges_nil (c : Config) : totalEdges c [] = 0 := rfl

@[simp] theorem totalEdges_cons (c : Config) (d : Desc) (l : List Desc) :
    totalEdges c (d :: l) = d.edges c + totalEdges c l := by
  simp [totalEdges]

@[simp] theorem edgesAfter_idle (c : Config) : Phase.idle.edgesAfter c = 0 := rfl

theorem edgesAfter_next {c : Config} {p q : Phase} (h : p.next? = some q) :
    p.edgesAfter c = q.dwell c + q.edgesAfter c := by
  cases p <;> cases h <;> simp only [Phase.edgesAfter, Phase.dwell] <;> omega

theorem edgesAfter_last {c : Config} {p : Phase} (h : p.next? = none) : p.edgesAfter c = 0 := by
  cases p <;> cases h <;> rfl

theorem dwell_add_edgesAfter_first (c : Config) (d : Desc) :
    d.first.dwell c + d.first.edgesAfter c = d.edges c := by
  cases d <;> simp only [Desc.first, Phase.dwell, Phase.edgesAfter, Desc.edges, writeEdges, readEdges] <;> omega

theorem remaining_startCycle (d : Desc) (q : List Desc) (s : State) :
    (startCycle d { s with cq := q }).remaining = totalEdges s.cfg (d :: q) := by
  simp [State.remaining, dwell_add_edgesAfter_first]

/-! ### The writes and samples still to come -/

/-- The steps of a cycle before its write is performed or its byte is sampled (20 R76, R78). -/
def Phase.beforeEvent : Phase → Bool
  | .w1 | .w2 | .w3 | .r1 | .r2 | .r3 | .r4 => true
  | .idle | .w4 | .w5 | .r5 | .r6 | .r7 | .r8 => false

/-- The cycles whose write or sample is still to come, in order. -/
def State.pendingCycles (s : State) : List Desc := if s.ph.beforeEvent then s.cycles else s.cq

@[simp] theorem beforeEvent_idle : Phase.idle.beforeEvent = false := rfl

/-- While the cycle of `d` is in progress, it is pending exactly before its event. -/
theorem pendingCycles_of_cur {s : State} {d : Desc} (hcur : s.cur = some d) :
    s.pendingCycles = (if s.ph.beforeEvent then [d] else []) ++ s.cq := by
  unfold State.pendingCycles State.cycles
  rw [hcur]
  split <;> rfl

theorem first_beforeEvent (d : Desc) : d.first.beforeEvent = true := by cases d <;> rfl

theorem last_beforeEvent {p : Phase} (h : p.next? = none) : p.beforeEvent = false := by
  cases p <;> cases h <;> rfl

theorem pendingCycles_startCycle (d : Desc) (q : List Desc) (s : State) :
    (startCycle d { s with cq := q }).pendingCycles = d :: q := by
  simp [State.pendingCycles, first_beforeEvent, State.cycles]

/-- An edge that stays in its phase, or enters a first step or IDLE, performs nothing on the bus. -/
theorem busEvent_eq_nil {s s' : State} (h : s'.ph ≠ .w4 ∧ s'.ph ≠ .r5 ∨ s.ph = s'.ph) : busEvent s s' = [] := by
  unfold busEvent
  split
  · simp_all
  · simp_all
  · rfl

/-- A later step of a cycle performs its write or takes its sample exactly if it ends the steps before them. -/
theorem events_enterStep {b : Byte} {d : Desc} {p : Phase} {s t : State} (hs : d.hasStep s.ph = true)
    (hnext : s.ph.next? = some p) :
    (if s.ph.beforeEvent then [d] else []) =
      (busEvent s (enterStep b d p t)).map Event.desc ++ (if p.beforeEvent then [d] else []) := by
  cases d with
  | wd a v mods =>
    obtain ⟨hp, rfl⟩ | ⟨hp, rfl⟩ | ⟨hp, rfl⟩ | ⟨hp, rfl⟩ := next_of_write hs hnext <;>
      simp [hp, busEvent, Phase.beforeEvent, Event.desc]
  | rd a m k =>
    obtain ⟨hp, rfl⟩ | ⟨hp, rfl⟩ | ⟨hp, rfl⟩ | ⟨hp, rfl⟩ | ⟨hp, rfl⟩ | ⟨hp, rfl⟩ | ⟨hp, rfl⟩ :=
      next_of_read hs hnext <;> simp [hp, busEvent, Phase.beforeEvent, Event.desc]

/-! ### One edge of a busy block -/

/-- What an edge of a busy block without a reset leaves and uses up. -/
structure BusyEdge (s s' : State) : Prop where
  cfg : s'.cfg = s.cfg
  cwg : s'.cwg = s.cwg
  streq : s'.streq = s.streq
  fmap : s'.fmap = s.fmap
  lastErr : s'.lastErr = s.lastErr
  errSeen : s'.errSeen = s.errSeen
  remaining : s.remaining = s'.remaining + 1
  pending : s.pendingCycles = (busEvent s s').map Event.desc ++ s'.pendingCycles

theorem busyEdge_of_step {s s' : State} (hinv : Inv s) (hbusy : s.ph ≠ .idle) (hrst : s.pins.rst = false)
    (h : step s = .next s') : BusyEdge s s' := by
  have hcount := (hinv.seq.busy_count hbusy).1
  cases edge_of_step h with
  | reset hr => simp [hr] at hrst
  | silent _ hi => exact absurd hi hbusy
  | rejects ha | starts _ ha => exact absurd ha.idle hbusy
  | counts d _ _ hcur hcnt =>
    refine ⟨by simp, by simp, by simp, by simp, by simp, by simp, ?_, ?_⟩
    · simp only [State.remaining, State.tick_cfg, State.tick_ph, State.tick_cq]
      omega
    · rw [busEvent_eq_nil (.inr (by simp))]
      simp [State.pendingCycles, State.cycles]
  | enters d p _ hs hcur hcnt hnext =>
    refine ⟨by simp, by simp, by simp, by simp, by simp, by simp, ?_, ?_⟩
    · simp only [State.remaining, enterStep_cnt, enterStep_ph, enterStep_cfg, enterStep_cq, State.tick_cfg,
        State.tick_cq, edgesAfter_next hnext]
      omega
    · rw [pendingCycles_of_cur hcur, pendingCycles_of_cur (enterStep_cur ..),
        events_enterStep (b := s.pins.dIn) (t := s.tick) hs hnext, List.append_assoc, enterStep_cq,
        State.tick_cq]
      rfl
  | continues d d' q _ _ _ hcnt hlast hcq =>
    refine ⟨by simp, by simp, by simp, by simp, by simp, by simp, ?_, ?_⟩
    · rw [remaining_startCycle]
      simp only [State.remaining, edgesAfter_last hlast, hcq, State.tick_cfg]
      omega
    · rw [pendingCycles_startCycle, busEvent_eq_nil (.inl _)]
      · simp [State.pendingCycles, last_beforeEvent hlast, hcq]
      · cases d' <;> simp [Desc.first]
  | finishes d _ _ _ hcnt hlast hcq =>
    refine ⟨by simp, by simp, by simp, by simp, by simp, by simp, ?_, ?_⟩
    · simp only [State.remaining, edgesAfter_last hlast, hcq, finish_cnt, finish_ph, finish_cq, State.tick_cq,
        edgesAfter_idle, totalEdges_nil]
      omega
    · rw [busEvent_eq_nil (.inl (by simp))]
      simp [State.pendingCycles, last_beforeEvent hlast, hcq]

/-! ### Runs to the ready port -/

theorem remaining_pos {s : State} (hinv : Inv s) (hbusy : s.ph ≠ .idle) : 1 ≤ s.remaining :=
  (hinv.seq.busy_count hbusy).1.trans (by unfold State.remaining; omega)

theorem remaining_idle {s : State} (hinv : Inv s) (hidle : s.ph = .idle) :
    s.remaining = 0 ∧ s.pendingCycles = [] ∧ s.cycles = [] := by
  obtain ⟨hcnt, hcur, hcq⟩ := hinv.seq.idle_empty hidle
  simp [State.remaining, State.pendingCycles, State.cycles, hidle, hcnt, hcur, hcq]

/-- The run of a block to its ready port: it stays busy for exactly the edges still to come, the pending cycles are
performed in order, and what every edge of a busy block keeps holds at the end. -/
theorem run_to_ready (P : State → Prop)
    (hkeep : ∀ t t', Inv t → t.ph ≠ .idle → t.pins.rst = false → step t = .next t' → P t → P t') :
    ∀ n s, Inv s → s.remaining = n → NoReset n s → P s →
      (∀ k < n, ∃ t ev, runEdges k s = some (t, ev) ∧ t.busy = true) ∧
      ∃ t ev, runEdges n s = some (t, ev) ∧ t.ph = .idle ∧ ev.map Event.desc = s.pendingCycles ∧ P t := by
  intro n
  induction n with
  | zero =>
    intro s hinv hrem _ hP
    have hidle : s.ph = .idle := by
      by_contra hbusy
      have := remaining_pos hinv hbusy
      omega
    exact ⟨fun k hk => absurd hk (Nat.not_lt_zero k), s, [], rfl, hidle, (remaining_idle hinv hidle).2.1.symm, hP⟩
  | succ n ih =>
    intro s hinv hrem hnr hP
    have hbusy : s.ph ≠ .idle := fun hidle => by
      have := (remaining_idle hinv hidle).1
      omega
    obtain ⟨s', hstep⟩ := everyEdgeHasANextState s hinv
    have hedge := busyEdge_of_step hinv hbusy hnr.rst hstep
    have hrem' : s'.remaining = n := by
      have := hedge.remaining
      omega
    obtain ⟨hbefore, t, ev, hrun, hidle, hev, hPt⟩ := ih s' (hinv.step hstep) hrem' (hnr.tail (step_inputs hstep))
      (hkeep s s' hinv hbusy hnr.rst hstep hP)
    refine ⟨fun k hk => ?_, t, busEvent s s' ++ ev, by simp [runEdges_succ hstep, hrun], hidle, ?_, hPt⟩
    · cases k with
      | zero => exact ⟨s, [], rfl, (busy_iff s).2 hbusy⟩
      | succ k =>
        obtain ⟨u, ev', hrun', hu⟩ := hbefore k (Nat.lt_of_succ_lt_succ hk)
        exact ⟨u, _, by rw [runEdges_succ hstep, hrun']; rfl, hu⟩
    · rw [List.map_append, hev, ← hedge.pending]

/-! ### The edges of a command (70 R293) -/

theorem totalEdges_writes {c : Config} {l : List Desc} (h : ∀ d ∈ l, ∃ a v mods, d = .wd a v mods) :
    totalEdges c l = l.length * writeEdges c := by
  induction l with
  | nil => simp
  | cons d l ih =>
    rw [List.forall_mem_cons] at h
    obtain ⟨⟨a, v, mods, rfl⟩, hl⟩ := h
    rw [totalEdges_cons, ih hl, List.length_cons, Desc.edges]
    ring

theorem totalEdges_map_writes (c : Config) (n : Nat) (f g : Nat → Byte) (mods : Nat → List Nat) :
    totalEdges c ((List.range n).map fun m => .wd (f m) (g m) (mods m)) = n * writeEdges c := by
  rw [totalEdges_writes (by simp), List.length_map, List.length_range]

theorem totalEdges_expandW_all (c : Config) (a v : Byte) : totalEdges c (expandW c a v .all) = broadcastEdges c := by
  unfold broadcastEdges
  split_ifs with hb
  · simp [expandW_all_of_bcast hb, Desc.edges]
  · rw [expandW_all_of_not_bcast (by simpa using hb), totalEdges_map_writes]

theorem totalEdges_globalWrite (s : State) : totalEdges s.cfg (globalWrite s) = setterEdges s := by
  rw [globalWrite_eq, setterEdges, broadcastEdges]
  cases hb : s.cfg.bcast with
  | true =>
    simp only [true_and, if_true]
    split_ifs <;> simp [totalEdges_map_writes, Desc.edges]
  | false => simp [totalEdges_map_writes]

/-- The cycles of a command that is not rejected last the edges the table of 70 R293 gives. -/
theorem totalEdges_commandEmits {i : Instr} {s : State} (hc : rejectionCode s.cfg i = .none) :
    totalEdges s.cfg (commandEmits i (commandUpdate i { s with lastErr := .none })) = commandEdges s i := by
  unfold commandEdges
  rw [if_neg (by simp [hc])]
  cases i with
  | wrreg tgt | wrlog _ tgt =>
    cases tgt with
    | one m => simp [commandEmits, commandUpdate, Desc.edges]
    | all => exact totalEdges_expandW_all ..
  | setbri x => exact totalEdges_globalWrite (commandUpdate (.setbri x) { s with lastErr := .none })
  | setflen x => exact totalEdges_globalWrite (commandUpdate (.setflen x) { s with lastErr := .none })
  | setblen x => exact totalEdges_globalWrite (commandUpdate (.setblen x) { s with lastErr := .none })
  | setclr x => exact totalEdges_globalWrite (commandUpdate (.setclr x) { s with lastErr := .none })
  | rdreg | wrpos | selftest | rdtest | ldfmap => simp [commandEmits, commandUpdate, Desc.edges]
  | flashmap => exact totalEdges_map_writes ..

/-- After its acceptance edge a command has its edges of 70 R293 to come, and all its cycles. -/
theorem exec_remaining {i : Instr} {s s1 : State} (hinv : Inv s) (hidle : s.ph = .idle) (hx : exec i s = .next s1) :
    Inv s1 ∧ s1.remaining = commandEdges s i ∧ s1.pendingCycles = s1.cycles := by
  rw [exec_ready i ⟨hinv.seq.cfg_ok, hidle⟩] at hx
  cases hx
  split_ifs with hc
  · have hinv1 : Inv (commandStart i s) := hinv.commandStart hidle hc
    refine ⟨hinv1, ?_⟩
    rw [← totalEdges_commandEmits hc]
    obtain ⟨⟨k, dt, rfl⟩, heq⟩ | ⟨-, d, q, hemits, heq⟩ := commandStart_cases i hinv.seq.cfg_ok
    · have hrest := remaining_idle hinv1 (by simp [heq, hidle])
      exact ⟨hrest.1, hrest.2.1.trans hrest.2.2.symm⟩
    · rw [heq, remaining_startCycle, pendingCycles_startCycle, hemits]
      exact ⟨by simp, by simp [State.cycles]⟩
  · have hrest := remaining_idle (hinv.raiseCmdError (rejectionCode s.cfg i)) hidle
    refine ⟨hinv.raiseCmdError _, hrest.1.trans ?_, hrest.2.1.trans hrest.2.2.symm⟩
    unfold commandEdges
    rw [if_pos hc]

/-- The state has the shadow, the bitmap and the error items of `s`. -/
def KeepsShadow (s t : State) : Prop :=
  t.cwg = s.cwg ∧ t.streq = s.streq ∧ t.fmap = s.fmap ∧ t.lastErr = s.lastErr ∧ t.errSeen = s.errSeen

theorem BusyEdge.keepsShadow {s t t' : State} (h : BusyEdge t t') (hk : KeepsShadow s t) : KeepsShadow s t' := by
  obtain ⟨hcwg, hstreq, hfmap, hlast, herr⟩ := hk
  exact ⟨h.cwg.trans hcwg, h.streq.trans hstreq, h.fmap.trans hfmap, h.lastErr.trans hlast, h.errSeen.trans herr⟩

/-- Settles O51: from the acceptance edge the command has its edges of the table to come, and all its cycles pending. -/
theorem commandRunsItsCyclesInOrderAndThenIsReady : Obligations.CommandRunsItsCyclesInOrderAndThenIsReady := by
  intro i s s1 hinv hidle hx hnr
  obtain ⟨hinv1, hrem, hpending⟩ := exec_remaining hinv hidle hx
  obtain ⟨hbusy, t, ev, hrun, hready, hev, hkeeps⟩ := run_to_ready (KeepsShadow s1)
    (fun _ _ hi hb hr hstep => (busyEdge_of_step hi hb hr hstep).keepsShadow) _ s1 hinv1 hrem hnr
    ⟨rfl, rfl, rfl, rfl, rfl⟩
  exact ⟨hbusy, t, ev, hrun, by simp [State.cmdReady, State.busy, hready], hev.trans hpending, hkeeps⟩

end Sys2Proof.Machine

/-! The timed parts of a cycle: a dwell as a run, the width of the write strobe (40 R133), the sample after the setup time
(40 R136), and the byte a read command delivers (40 R143, 42 R220). -/

namespace Sys2Proof.Machine

/-! ### A dwell -/

/-- `s` after `k` edges of a dwell, with `dr` edges without listed inputs so far. -/
def State.waited (s : State) (k dr : Nat) : State :=
  { s with cnt := s.cnt - k, inputs := s.inputs.drop k, draws := dr }

theorem tick_eq_waited (s : State) : ∃ dr, { s.tick with cnt := s.cnt - 1 } = s.waited 1 dr := by
  unfold State.tick State.waited
  split
  · rename_i hin
    exact ⟨s.draws + 1, by simp [hin]⟩
  · rename_i hin
    exact ⟨s.draws, by simp [hin]⟩

theorem waited_waited (s : State) (j k dr dr' : Nat) : (s.waited j dr).waited k dr' = s.waited (j + k) dr' := by
  simp [State.waited, Nat.sub_sub]

section
variable {s : State} {d : Desc}

/-- During a dwell nothing changes but the count, and nothing happens on the bus. -/
theorem runEdges_dwell (hok : s.cfg.ok = true) (hcur : s.cur = some d) (hs : d.hasStep s.ph = true) {k : Nat}
    (hk : k < s.cnt) (hnr : NoReset k s) : ∃ dr, runEdges k s = some (s.waited k dr, []) := by
  induction k generalizing s with
  | zero => exact ⟨s.draws, rfl⟩
  | succ k ih =>
    obtain ⟨dr, hdr⟩ := tick_eq_waited s
    have hstep : step s = .next (s.waited 1 dr) :=
      hdr ▸ dwellCountsDownOneAnEdge s d hok hnr.rst hcur hs (by omega)
    obtain ⟨dr', hrun⟩ := ih (s := s.waited 1 dr) hok hcur hs (by simp only [State.waited]; omega)
      (hnr.tail (step_inputs hstep))
    refine ⟨dr', ?_⟩
    have hquiet : busEvent s (s.waited 1 dr) = [] := busEvent_eq_nil (.inr rfl)
    rw [runEdges_succ hstep, hrun, hquiet, waited_waited, Nat.add_comm 1 k]
    rfl

theorem waited_rst {k dr : Nat} (hnr : NoReset (k + 1) s) : (s.waited k dr).pins.rst = false :=
  NoReset.rst (n := 0) (hnr.drop rfl)

/-- The edge at which a dwell elapses comes after its count of edges; before it only the count has changed. -/
theorem runEdges_elapses (hinv : Inv s) (hcur : s.cur = some d) (hs : d.hasStep s.ph = true) {p : Phase}
    (hnext : s.ph.next? = some p) (hnr : NoReset s.cnt s) :
    ∃ dr ev, runEdges s.cnt s = some
      (enterStep (s.waited (s.cnt - 1) dr).pins.dIn d p (s.waited (s.cnt - 1) dr).tick, ev) := by
  have hpos := (hinv.seq.busy_count (hasStep_ne_idle hs)).1
  have hsplit : s.cnt = s.cnt - 1 + 1 := by omega
  obtain ⟨dr, hrun⟩ := runEdges_dwell hinv.seq.cfg_ok hcur hs (k := s.cnt - 1) (by omega)
    (hnr.mono (Nat.sub_le _ _))
  have hlast : (s.waited (s.cnt - 1) dr).cnt ≤ 1 := by
    simp only [State.waited]
    omega
  have hstep := step_enters (s := s.waited (s.cnt - 1) dr) hinv.seq.cfg_ok (waited_rst (hsplit ▸ hnr)) hcur hs hlast
    hnext
  have hall := runEdges_add hrun (runEdges_one hstep)
  rw [← hsplit] at hall
  exact ⟨dr, _, hall⟩

theorem waited_pins {k dr : Nat} {e : EdgeInput} (h : s.inputs[k]? = some e) : (s.waited k dr).pins = e := by
  obtain ⟨hk, rfl⟩ := List.getElem?_eq_some_iff.1 h
  exact State.pins_of_cons (rest := s.inputs.drop (k + 1)) (List.drop_eq_getElem_cons hk)

end

/-- An edge that changes the phase loads the dwell of the new one. -/
theorem cnt_of_phase_change {s s' : State} (h : step s = .next s') (hne : s.ph ≠ s'.ph) :
    s'.cnt = s'.ph.dwell s'.cfg := by
  cases edge_of_step h with
  | reset => rfl
  | silent | rejects | counts => simp at hne
  | starts i ha =>
    obtain ⟨-, heq⟩ | ⟨-, d, q, -, heq⟩ := commandStart_cases i (s := s.tick) (by simpa using ha.config) <;>
      rw [heq] at hne ⊢
    · simp at hne
    · simp
  | enters | continues => simp
  | finishes => rfl

/-! ### The write strobe -/

/-- Settles O52: WR_N falls at the edge that enters W3 with its dwell loaded, stays low for the dwell, and W4 raises it. -/
theorem writeStrobeIsLowForExactlyItsWidth : Obligations.WriteStrobeIsLowForExactlyItsWidth := by
  intro s0 s hinv0 h hhigh hlow hnr
  have hinv := hinv0.step h
  have hph : s.ph = .w3 := hinv.bus.write_strobe.1 hlow
  have hne : s0.ph ≠ s.ph := fun heq => by
    rw [hinv0.bus.write_strobe.2 (heq.trans hph)] at hhigh
    cases hhigh
  have hcnt : s.cnt = s.cfg.nWP := by
    rw [cnt_of_phase_change h hne, hph]
    rfl
  obtain ⟨d, hcur, hs⟩ := hinv.seq.busy_cycle (by simp [hph])
  rw [← hcnt] at hnr ⊢
  refine ⟨fun k hk => ?_, ?_, hcnt ▸ (Config.ok_timing hinv.seq.cfg_ok).2.1⟩
  · obtain ⟨dr, hrun⟩ := runEdges_dwell hinv.seq.cfg_ok hcur hs hk (hnr.mono hk.le)
    exact ⟨_, _, hrun, hlow, rfl, rfl, rfl⟩
  · obtain ⟨dr, ev, hrun⟩ := runEdges_elapses hinv hcur hs (p := .w4) (by rw [hph]; rfl) hnr
    refine ⟨_, _, hrun, ?_⟩
    cases d with
    | wd => rfl
    | rd => rw [hph] at hs; cases hs

/-! ### The sample -/

/-- R5 is entered from R4 alone. -/
theorem r4_or_r5_of_step_r5 {s s' : State} (h : step s = .next s') (hp : s'.ph = .r5) : s.ph = .r4 ∨ s.ph = .r5 := by
  cases edge_of_step h with
  | reset => cases hp
  | silent | rejects | counts => exact .inr (by simpa using hp)
  | starts i ha =>
    obtain ⟨-, heq⟩ | ⟨-, d, q, -, heq⟩ := commandStart_cases i (s := s.tick) (by simpa using ha.config) <;>
      rw [heq] at hp
    · exact .inr (by simpa using hp)
    · cases d <;> cases hp
  | enters d p _ _ _ _ hnext =>
    obtain rfl : p = .r5 := hp
    exact .inl (next?_eq_r5 hnext)
  | continues d d' => cases d' <;> cases hp
  | finishes => cases hp

/-- Settles O53: RD_N falls at the edge that enters R4 with its dwell loaded; R5 samples when it elapses, and R6, one edge
later, raises RD_N. -/
theorem readSamplesTheDataPinsAfterTheSetupTime : Obligations.ReadSamplesTheDataPinsAfterTheSetupTime := by
  intro s0 s e hinv0 h hhigh hlow hnr hin
  have hinv := hinv0.step h
  have hnot : ¬ (s0.ph = .r4 ∨ s0.ph = .r5) := fun hp => by
    rw [hinv0.bus.read_strobe.2 hp] at hhigh
    cases hhigh
  have hph : s.ph = .r4 := (hinv.bus.read_strobe.1 hlow).resolve_right fun hp => hnot (r4_or_r5_of_step_r5 h hp)
  have hcnt : s.cnt = s.cfg.nRS := by
    rw [cnt_of_phase_change h fun heq => hnot (.inl (heq.trans hph)), hph]
    rfl
  obtain ⟨d, hcur, hs⟩ := hinv.seq.busy_cycle (by simp [hph])
  obtain ⟨a, m, k, rfl⟩ := hasStep_r4 (hph ▸ hs)
  rw [← hcnt] at hnr hin ⊢
  obtain ⟨dr, ev, hrun⟩ := runEdges_elapses hinv hcur hs (p := .r5) (by rw [hph]; rfl) (hnr.mono (Nat.le_succ _))
  rw [waited_pins hin] at hrun
  have hnext := step_enters (s := enterStep e.dIn (.rd a m k) .r5 (s.waited (s.cnt - 1) dr).tick) (p := .r6)
    (by simpa [State.waited] using hinv.seq.cfg_ok) (NoReset.rst (n := 0) (hnr.drop (runEdges_inputs hrun))) rfl rfl le_rfl rfl
  refine ⟨fun j hj => ?_, ⟨_, _, hrun, rfl, ?_, ?_⟩, ⟨_, _, runEdges_add hrun (runEdges_one hnext), ?_, ?_⟩,
    hcnt ▸ (Config.ok_timing hinv.seq.cfg_ok).2.2.1⟩
  · obtain ⟨dr, hrun⟩ := runEdges_dwell hinv.seq.cfg_ok hcur hs hj (hnr.mono (by omega))
    exact ⟨_, _, hrun, hph, hlow, rfl⟩
  · simpa [enterStep, performStep, State.waited] using hlow
  all_goals simp [enterStep, performStep]

/-! ### The byte a read command delivers -/

/-- The edges a read still needs up to and with its sample: all that remain but those after R4. -/
def State.edgesToSample (s : State) : Nat := s.remaining - Phase.r4.edgesAfter s.cfg

/-- A read of kind `k` is in progress and alone, its sample is still to come, and `e` is what the host and the modules show
before the sample edge. -/
structure SamplePending (k : ReadKind) (e : EdgeInput) (s : State) : Prop where
  alone : s.cq = []
  before : s.ph.beforeEvent = true
  cur : ∃ a m, s.cur = some (.rd a m k)
  input : s.inputs[s.edgesToSample - 1]? = some e

/-- The last read is past its sample. -/
structure SampleTaken (s : State) : Prop where
  alone : s.cq = []
  past : s.ph.beforeEvent = false

/-- Before the sample of a read there are more edges to come than those after R4. -/
theorem edgesAfter_r4_le (c : Config) {p : Phase} (hr : p.isRead = true) (hb : p.beforeEvent = true) :
    Phase.r4.edgesAfter c ≤ p.edgesAfter c := by
  cases p <;> simp_all [Phase.isRead, Phase.beforeEvent, Phase.edgesAfter]

theorem edgesToSample_pos {s : State} (hinv : Inv s) (hr : s.ph.isRead = true) (hb : s.ph.beforeEvent = true) :
    s.remaining = s.edgesToSample + Phase.r4.edgesAfter s.cfg ∧ 1 ≤ s.edgesToSample := by
  have hle := edgesAfter_r4_le s.cfg hr hb
  have hcnt := (hinv.seq.busy_count fun hi => by rw [hi] at hr; cases hr).1
  unfold State.edgesToSample State.remaining
  omega

/-- The last step before the sample is R4. -/
theorem eq_r4_of_last_before {p q : Phase} (hr : p.isRead = true) (hb : p.beforeEvent = true) (hn : p.next? = some q)
    (hq : q.beforeEvent = false) : p = .r4 ∧ q = .r5 := by
  obtain ⟨rfl, rfl⟩ | ⟨rfl, rfl⟩ | ⟨rfl, rfl⟩ | ⟨rfl, rfl⟩ | ⟨rfl, rfl⟩ | ⟨rfl, rfl⟩ | ⟨rfl, rfl⟩ := next_of_read hr hn <;>
    simp_all [Phase.beforeEvent]

theorem next_beforeEvent {p q : Phase} (hb : p.beforeEvent = false) (hn : p.next? = some q) :
    q.beforeEvent = false := by
  cases p <;> cases hn <;> simp_all [Phase.beforeEvent]

section
variable {k : ReadKind} {e : EdgeInput} {s s' : State}

theorem not_idle_of_before (hb : s.ph.beforeEvent = true) : s.ph ≠ .idle := fun hi => by
  rw [hi] at hb
  cases hb

theorem isRead_of_before (hinv : Inv s) {a : Byte} {m : Nat} (hcur : s.cur = some (.rd a m k))
    (hb : s.ph.beforeEvent = true) : s.ph.isRead = true := by
  obtain ⟨d, hd, hs⟩ := hinv.seq.busy_cycle (not_idle_of_before hb)
  cases hcur.symm.trans hd
  exact hs

/-- An edge that leaves the read before its sample brings the sample one edge nearer. -/
theorem SamplePending.nearer (h : SamplePending k e s) (hinv : Inv s) (hrst : s.pins.rst = false)
    (hstep : step s = .next s') (hcur' : s'.cur = s.cur) (hcq' : s'.cq = s.cq) (hb' : s'.ph.beforeEvent = true) :
    SamplePending k e s' ∧ s'.tr = s.tr := by
  obtain ⟨a, m, hcur⟩ := h.cur
  have hinv' := hinv.step hstep
  have hedge := busyEdge_of_step hinv (not_idle_of_before h.before) hrst hstep
  obtain ⟨hrem, -⟩ := edgesToSample_pos hinv (isRead_of_before hinv hcur h.before) h.before
  obtain ⟨hrem', hpos'⟩ := edgesToSample_pos hinv' (isRead_of_before hinv' (hcur'.trans hcur) hb') hb'
  have hone := hedge.remaining
  rw [hedge.cfg] at hrem'
  refine ⟨⟨hcq'.trans h.alone, hb', ⟨a, m, hcur'.trans hcur⟩, ?_⟩, ?_⟩
  · rw [step_inputs hstep, List.getElem?_tail, ← h.input]
    congr 1
    omega
  · exact (sampled_of_not_sample_edge hstep hrst fun hp => by rw [hp.2] at hb'; cases hb').2

/-- With R4 elapsed the sample is the next edge. -/
theorem SamplePending.pins (h : SamplePending k e s) (hr4 : s.ph = .r4) (hcnt : s.cnt = 1) : s.pins = e := by
  have hone : s.edgesToSample = 1 := by
    simp [State.edgesToSample, State.remaining, hr4, hcnt, h.alone]
  have hin := h.input
  rw [hone] at hin
  obtain ⟨rest, hrest⟩ := List.head?_eq_some_iff.1 (List.head?_eq_getElem?.trans hin)
  exact State.pins_of_cons hrest

/-- An edge before the sample brings it one edge nearer, or takes it. -/
theorem SamplePending.step (h : SamplePending k e s) (hinv : Inv s) (hrst : s.pins.rst = false)
    (hstep : step s = .next s') :
    (SamplePending k e s' ∧ s'.tr = s.tr) ∨
      (SampleTaken s' ∧ s'.rdata = e.dIn ∧ s'.tr = (sample k e.dIn s).tr) := by
  have hbefore := h.before
  have hbusy := not_idle_of_before hbefore
  have hnearer := h.nearer hinv hrst hstep
  obtain ⟨a, m, hcur⟩ := h.cur
  cases edge_of_step hstep with
  | reset hr => simp [hr] at hrst
  | silent _ hi => exact absurd hi hbusy
  | rejects ha | starts _ ha => exact absurd ha.idle hbusy
  | counts => exact .inl (hnearer (by simp) (by simp) (by simpa using hbefore))
  | enters d p _ _ hd hcnt hnext =>
    cases hcur.symm.trans hd
    cases hp : p.beforeEvent with
    | true => exact .inl (hnearer (by simp [hcur]) (by simp) hp)
    | false =>
      obtain ⟨hr4, rfl⟩ := eq_r4_of_last_before (isRead_of_before hinv hcur hbefore) hbefore hnext hp
      obtain ⟨hrdata, htr⟩ := enterStep_r5_rd s.pins.dIn a m k s.tick
      have hnow : s.pins = e := h.pins hr4 (le_antisymm hcnt (hinv.seq.busy_count hbusy).1)
      refine .inr ⟨⟨by simpa using h.alone, rfl⟩, hnow ▸ hrdata, ?_⟩
      rw [htr, hnow]
      cases k <;> simp
  | continues _ _ _ _ _ _ _ hlast | finishes _ _ _ _ _ hlast =>
    rw [last_beforeEvent hlast] at hbefore
    cases hbefore

/-- After the sample no edge of the read changes RDATA or TR. -/
theorem SampleTaken.step (h : SampleTaken s) (hbusy : s.ph ≠ .idle) (hrst : s.pins.rst = false)
    (hstep : step s = .next s') : SampleTaken s' ∧ s'.rdata = s.rdata ∧ s'.tr = s.tr := by
  have hpast := h.past
  refine ⟨?_, sampled_of_not_sample_edge hstep hrst fun hp => by rw [hp.1] at hpast; cases hpast⟩
  cases edge_of_step hstep with
  | reset hr => simp [hr] at hrst
  | silent _ hi => exact absurd hi hbusy
  | rejects ha | starts _ ha => exact absurd ha.idle hbusy
  | counts => exact ⟨by simpa using h.alone, by simpa using hpast⟩
  | enters _ _ _ _ _ _ hnext => exact ⟨by simpa using h.alone, next_beforeEvent hpast hnext⟩
  | continues _ _ _ _ _ _ _ _ hcq => simp [h.alone] at hcq
  | finishes _ _ _ _ _ _ hcq => exact ⟨by simpa using hcq, rfl⟩

end

theorem sample_tr_congr {k : ReadKind} {b : Byte} {s t : State} (hcfg : s.cfg = t.cfg) (htr : s.tr = t.tr) :
    (sample k b s).tr = (sample k b t).tr := by
  cases k <;> simp [hcfg, htr]

/-- What holds all through a read of kind `k` that was started in `s`: its sample is to come, or is taken. -/
def ReadRun (k : ReadKind) (e : EdgeInput) (s t : State) : Prop :=
  KeepsShadow s t ∧ t.cfg = s.cfg ∧
    ((SamplePending k e t ∧ t.tr = s.tr) ∨ (SampleTaken t ∧ t.rdata = e.dIn ∧ t.tr = (sample k e.dIn s).tr))

theorem ReadRun.step {k : ReadKind} {e : EdgeInput} {s t t' : State} (h : ReadRun k e s t) (hinv : Inv t)
    (hbusy : t.ph ≠ .idle) (hrst : t.pins.rst = false) (hstep : step t = .next t') : ReadRun k e s t' := by
  have hedge := busyEdge_of_step hinv hbusy hrst hstep
  obtain ⟨hkeeps, hcfg, hsample⟩ := h
  refine ⟨hedge.keepsShadow hkeeps, hedge.cfg.trans hcfg, ?_⟩
  obtain ⟨hp, htr⟩ | ⟨hp, hrd, htr⟩ := hsample
  · obtain ⟨hp', htr'⟩ | ⟨hp', hrd', htr'⟩ := hp.step hinv hrst hstep
    · exact .inl ⟨hp', htr'.trans htr⟩
    · exact .inr ⟨hp', hrd', htr'.trans (sample_tr_congr hcfg htr)⟩
  · obtain ⟨hp', hrd', htr'⟩ := hp.step hbusy hrst hstep
    exact .inr ⟨hp', hrd'.trans hrd, htr'.trans htr⟩

/-- A started read ends with the byte before its sample edge in RDATA, and TR as its kind writes it. -/
theorem read_delivers {s : State} {a : Byte} {m : Nat} {k : ReadKind} {e : EdgeInput}
    (hinv : Inv (s.startedRead a m k)) (hnr : NoReset (readEdges s.cfg) s)
    (hin : s.inputs[s.cfg.nAS + s.cfg.nDZ + s.cfg.nCW + s.cfg.nRS - 1]? = some e) :
    ∃ t ev, runEdges (readEdges s.cfg) (s.startedRead a m k) = some (t, ev) ∧ t.ph = .idle ∧ t.rdata = e.dIn ∧
      t.tr = (sample k e.dIn s).tr ∧ t.cwg = s.cwg ∧ t.streq = s.streq := by
  have hrem : (s.startedRead a m k).remaining = readEdges s.cfg := remaining_startCycle (.rd a m k) [] s
  have hpending : SamplePending k e (s.startedRead a m k) := {
    alone := rfl
    before := rfl
    cur := ⟨a, m, rfl⟩
    input := by
      have hindex : (s.startedRead a m k).edgesToSample = s.cfg.nAS + s.cfg.nDZ + s.cfg.nCW + s.cfg.nRS := by
        rw [State.edgesToSample, hrem]
        simp only [readEdges, Phase.edgesAfter, State.startedRead_cfg]
        omega
      rw [hindex]
      exact hin }
  obtain ⟨-, t, ev, hrun, hidle, -, hkeeps, -, hsample⟩ := run_to_ready (ReadRun k e (s.startedRead a m k))
    (fun _ _ hi hb hr hstep hread => hread.step hi hb hr hstep) _ _ hinv hrem hnr
    ⟨⟨rfl, rfl, rfl, rfl, rfl⟩, rfl, .inl ⟨hpending, rfl⟩⟩
  obtain ⟨hcwg, hstreq, -⟩ := hkeeps
  obtain ⟨hp, -⟩ | ⟨-, hrd, htr⟩ := hsample
  · exact absurd hidle (not_idle_of_before hp.before)
  · exact ⟨t, ev, hrun, hidle, hrd, htr.trans (sample_tr_congr rfl rfl), hcwg, hstreq⟩

/-- Settles O54: both commands start one read, of their own kind. -/
theorem readCommandsDeliverTheSampledByte : Obligations.ReadCommandsDeliverTheSampledByte := by
  intro s s1 m ad e hinv hidle hm hnr hin
  have hready : Ready s := ⟨hinv.seq.cfg_ok, hidle⟩
  constructor
  · intro hx
    have hinv1 := (exec_remaining hinv hidle hx).1
    cases (rdregStartsItsRead m ad s hready hm).symm.trans hx
    exact read_delivers hinv1 hnr hin
  · intro hx
    have hinv1 := (exec_remaining hinv hidle hx).1
    cases (rdtestStartsItsRead m s hready hm).symm.trans hx
    exact read_delivers hinv1 hnr hin

end Sys2Proof.Machine

/-! The shadow written through (42 R221 (5)): the last control-word byte written, or about to be written, to each module is
CWbyte of the shadow. -/

namespace Sys2Proof.Machine

/-! ### The last byte written -/

section
variable (a : Byte) (m : Nat) (old : Option Byte)

@[simp] theorem lastWritten_nil : lastWritten a m [] old = old := rfl

@[simp] theorem lastWritten_wd (a' v : Byte) (mods : List Nat) (ds : List Desc) :
    lastWritten a m (.wd a' v mods :: ds) old = lastWritten a m ds (if a' = a ∧ m ∈ mods then some v else old) := rfl

@[simp] theorem lastWritten_rd (a' : Byte) (j : Nat) (k : ReadKind) (ds : List Desc) :
    lastWritten a m (.rd a' j k :: ds) old = lastWritten a m ds old := rfl

theorem lastWritten_append (ds es : List Desc) :
    lastWritten a m (ds ++ es) old = lastWritten a m es (lastWritten a m ds old) :=
  List.foldl_append

/-- Cycles at other addresses leave what was there. -/
theorem lastWritten_of_addr_ne {ds : List Desc} (h : ∀ d ∈ ds, d.addr ≠ a) : lastWritten a m ds old = old := by
  induction ds with
  | nil => rfl
  | cons d ds ih =>
    obtain ⟨hd, hds⟩ := List.forall_mem_cons.1 h
    cases d with
    | rd => exact ih hds
    | wd a' v mods =>
      rw [lastWritten_wd, if_neg fun hw => hd hw.1]
      exact ih hds

/-- One write a module of its own byte gives every module its byte. -/
theorem lastWritten_map_own (f : Nat → Byte) (n : Nat) :
    lastWritten a m ((List.range n).map fun j => .wd a (f j) [j]) old = if m < n then some (f m) else old := by
  induction n with
  | zero => rfl
  | succ n ih =>
    rw [List.range_succ, List.map_append, lastWritten_append, ih]
    by_cases hn : m = n
    · simp [hn]
    · simp [hn, show m < n + 1 ↔ m < n by omega]

end

/-- The global write-out gives every module its byte, whatever it had (42 R214). -/
theorem lastWritten_globalWrite {s : State} {m : Nat} (hm : m < s.cfg.nmod) (old : Option Byte) :
    lastWritten s.cfg.rat.ctrl m (globalWrite s) old = some (cwByte s m) := by
  rw [globalWrite_eq]
  split_ifs with h
  · simp [hm, cwByte_congr_module (h.2 m hm)]
  · rw [lastWritten_map_own, if_pos hm]

/-! ### What CWbyte depends on -/

/-- CWbyte depends on the layout, CWG and the module's request bit alone (42 R211). -/
theorem cwByte_congr {s t : State} {m : Nat} (hcfg : t.cfg = s.cfg) (hcwg : t.cwg = s.cwg)
    (hreq : t.selfTestReq m = s.selfTestReq m) : cwByte t m = cwByte s m := by
  simp [cwByte, hcfg, hcwg, hreq]

theorem cwByte_of_streq {s t : State} (m : Nat) (hcfg : t.cfg = s.cfg) (hcwg : t.cwg = s.cwg)
    (hstreq : t.streq = s.streq) : cwByte t m = cwByte s m :=
  cwByte_congr hcfg hcwg (by simp [State.selfTestReq, hstreq])

/-- SELFTEST of one module leaves the bytes of the others. -/
theorem cwByte_selftest_ne (s : State) {tgt : Target} {m : Nat} (h : m ≠ targetNumber tgt) (v : Bool) :
    cwByte (commandUpdate (.selftest tgt v) s) m = cwByte s m :=
  cwByte_congr rfl rfl (by simp [State.selfTestReq, commandUpdate, List.getElem?_set_ne h.symm])

/-! ### What a command about to run leaves -/

theorem expandW_addr {c : Config} {a v : Byte} {tgt : Target} {d : Desc} (h : d ∈ expandW c a v tgt) : d.addr = a := by
  obtain ⟨mods, rfl⟩ := expandW_writes h
  rfl

/-- The registers of a position are not the control word. -/
theorem localAddr_ne_ctrl {c : Config} (hok : c.ok = true) {sp : Space} (hs : sp.isLocal = true) {ix : Nat}
    (hix : ix < c.w) : regAddr c sp ix ≠ c.rat.ctrl := by
  obtain rfl | rfl := (isLocal_iff sp).1 hs <;> exact regAddr_ne_ctrl hok (decide_eq_true hix) (by decide)

/-- A command that is neither rejected nor a raw write to the control-word address keeps every module's byte, or writes it
anew. -/
theorem lastWritten_commandEmits {i : Instr} {s : State} {m : Nat} (hok : s.cfg.ok = true)
    (hc : rejectionCode s.cfg i = .none) (hraw : rawControlWrite s.cfg i = false) (hm : m < s.cfg.nmod) :
    lastWritten s.cfg.rat.ctrl m (commandEmits i (commandUpdate i s)) (some (cwByte s m)) =
      some (cwByte (commandUpdate i s) m) := by
  have hchecks := checks_of_not_rejected hc
  cases i with
  | wrreg tgt ad dt =>
    have hne : ad ≠ s.cfg.rat.ctrl := by simpa [rawControlWrite] using hraw
    exact lastWritten_of_addr_ne _ _ _ fun d hd => expandW_addr hd ▸ hne
  | wrlog sp tgt ix dt =>
    simp only [commandChecks, List.forall_mem_cons] at hchecks
    have hne := regAddr_ne_ctrl hok hchecks.2.1 (by simpa [rawControlWrite] using hraw)
    exact lastWritten_of_addr_ne _ _ _ fun d hd => expandW_addr hd ▸ hne
  | wrpos sp pos dt =>
    simp only [commandChecks, List.forall_mem_cons, decide_eq_true_eq] at hchecks
    have hne := localAddr_ne_ctrl hok hchecks.1 (resolve_range hok hchecks.2.1).2
    exact lastWritten_of_addr_ne _ _ _ (List.forall_mem_singleton.2 hne)
  | flashmap =>
    refine lastWritten_of_addr_ne _ _ _ (List.forall_mem_map.2 fun p hp => ?_)
    exact localAddr_ne_ctrl (sp := .flash) hok rfl (resolve_range hok (List.mem_range.1 hp)).2
  | setbri br => exact lastWritten_globalWrite (s := commandUpdate (.setbri br) s) hm _
  | setflen v => exact lastWritten_globalWrite (s := commandUpdate (.setflen v) s) hm _
  | setblen v => exact lastWritten_globalWrite (s := commandUpdate (.setblen v) s) hm _
  | setclr v => exact lastWritten_globalWrite (s := commandUpdate (.setclr v) s) hm _
  | selftest tgt v =>
    by_cases hmt : m = targetNumber tgt
    · simp [commandEmits, hmt]
    · simp [commandEmits, hmt, cwByte_selftest_ne s hmt]
  | rdreg | rdtest | ldfmap => rfl

/-! ### Written through, by the cycles still to come -/

/-- Reads write nothing, so the pending writes are as good as the pending cycles. -/
theorem lastWritten_pendingWrites {s : State} (hinv : Inv s) (a : Byte) (m : Nat) (old : Option Byte) :
    lastWritten a m s.pendingWrites old = lastWritten a m s.pendingCycles old := by
  by_cases hidle : s.ph = .idle
  · simp [State.pendingWrites, State.pendingCycles, hidle]
  · obtain ⟨d, hcur, hs⟩ := hinv.seq.busy_cycle hidle
    rw [pendingCycles_of_cur hcur]
    cases d with
    | wd =>
      cases hp : s.ph <;>
        simp_all [State.pendingWrites, State.cycles, Phase.beforeEvent, Desc.hasStep, Phase.isWrite]
    | rd =>
      cases hp : s.ph <;>
        simp_all [State.pendingWrites, Phase.beforeEvent, Desc.hasStep, Phase.isRead]

theorem writtenThrough_iff {s : State} (hinv : Inv s) (dev : Nat → Option Byte) :
    WrittenThrough s dev ↔
      ∀ m < s.cfg.nmod, lastWritten s.cfg.rat.ctrl m s.pendingCycles (dev m) = some (cwByte s m) := by
  simp only [WrittenThrough, lastWritten_pendingWrites hinv]

/-- The cycles of a started command are all pending. -/
theorem pendingCycles_commandStart {s : State} (hinv : Inv s) (hidle : s.ph = .idle) {i : Instr}
    (hc : rejectionCode s.cfg i = .none) :
    (commandStart i s).pendingCycles = commandEmits i (commandUpdate i { s with lastErr := .none }) := by
  have hinv1 := hinv.commandStart hidle hc
  obtain ⟨⟨k, dt, rfl⟩, heq⟩ | ⟨-, d, q, hemits, heq⟩ := commandStart_cases i hinv.seq.cfg_ok
  · exact (remaining_idle hinv1 (by simp [heq, hidle])).2.1
  · rw [heq, pendingCycles_startCycle, hemits]

theorem cwByte_commandStart (i : Instr) (s : State) (m : Nat) :
    cwByte (commandStart i s) m = cwByte (commandUpdate i { s with lastErr := .none }) m := by
  refine cwByte_of_streq m ?_ ?_ ?_ <;> simp [commandStart]

/-- Settles O55: the write-out a global setter starts gives every module the byte of the new shadow. -/
theorem globalSettersWriteTheShadowThrough : Obligations.GlobalSettersWriteTheShadowThrough := by
  intro s s' dev br v hinv hidle hx
  have hsetter : ∀ i : Instr, rejectionCode s.cfg i = .none → (∀ t, commandEmits i t = globalWrite t) →
      exec i s = .next s' → WrittenThrough s' dev := by
    intro i hc hemits hx
    cases (exec_starts ⟨hinv.seq.cfg_ok, hidle⟩ hc).symm.trans hx
    rw [writtenThrough_iff (hinv.commandStart hidle hc), pendingCycles_commandStart hinv hidle hc, hemits]
    intro m hm
    rw [cwByte_commandStart]
    have hlast := lastWritten_globalWrite (s := commandUpdate i { s with lastErr := .none }) (m := m)
      (by simpa using hm) (dev m)
    simpa using hlast
  obtain hx | hx | hx | hx := hx <;> exact hsetter _ rfl (fun _ => rfl) hx

/-- An edge of a busy block performs the first of the pending cycles or none, and leaves the shadow. -/
theorem writtenThrough_of_busyEdge {s s' : State} {dev : Nat → Option Byte} (hinv : Inv s) (hinv' : Inv s')
    (hedge : BusyEdge s s') (h : WrittenThrough s dev) :
    WrittenThrough s' (recordEvents s.cfg.rat.ctrl (busEvent s s') dev) := by
  rw [writtenThrough_iff hinv, hedge.pending] at h
  rw [writtenThrough_iff hinv', hedge.cfg]
  intro m hm
  have hlast := h m hm
  rw [lastWritten_append] at hlast
  rw [cwByte_of_streq m hedge.cfg hedge.cwg hedge.streq]
  exact hlast

/-- At an edge of an idle block nothing happens on the bus. -/
theorem recordEvents_of_idle {s s' : State} (hidle : s.ph = .idle) (ctrl : Byte) (dev : Nat → Option Byte) :
    recordEvents ctrl (busEvent s s') dev = dev := by
  have hquiet : busEvent s s' = [] := by simp [busEvent, hidle]
  rw [hquiet]
  rfl

/-- Settles O56: an idle block has nothing pending, so the modules have the bytes of the shadow; a command that starts keeps
them or writes them anew; a busy block only performs what is pending. -/
theorem theShadowStaysWrittenThrough : Obligations.TheShadowStaysWrittenThrough := by
  intro s s' dev hinv hstep hrst hraw h
  have hinv' := hinv.step hstep
  by_cases hidle : s.ph = .idle
  · rw [recordEvents_of_idle hidle]
    have hnow : ∀ m < s.cfg.nmod, dev m = some (cwByte s m) := by
      simpa [writtenThrough_iff hinv, (remaining_idle hinv hidle).2.1] using h
    have hquiet : s'.ph = .idle → s'.cfg = s.cfg → s'.cwg = s.cwg → s'.streq = s.streq → WrittenThrough s' dev := by
      intro hidle' hcfg hcwg hstreq
      rw [writtenThrough_iff hinv', (remaining_idle hinv' hidle').2.1, hcfg]
      intro m hm
      rw [cwByte_of_streq m hcfg hcwg hstreq]
      exact hnow m hm
    cases edge_of_step hstep with
    | reset hr => simp [hr] at hrst
    | silent | rejects => exact hquiet (by simpa using hidle) (by simp) (by simp) (by simp)
    | starts i ha hd hc =>
      have hidle : s.tick.ph = .idle := by simpa using hidle
      have hc : rejectionCode s.tick.cfg i = .none := by simpa using hc
      rw [writtenThrough_iff hinv', pendingCycles_commandStart hinv.tick hidle hc, commandStart_cfg]
      intro m hm
      have hsame : cwByte { s.tick with lastErr := .none } m = cwByte s m :=
        cwByte_of_streq m (by simp) (by simp) (by simp)
      rw [hnow m (by simpa using hm), cwByte_commandStart, ← hsame]
      exact lastWritten_commandEmits (s := { s.tick with lastErr := .none }) hinv.tick.seq.cfg_ok hc
        (by simpa using hraw _ i ha hd) hm
    | counts d _ hs | enters d _ _ hs | continues d _ _ _ hs | finishes d _ hs =>
      exact absurd hidle (hasStep_ne_idle hs)
  · exact writtenThrough_of_busyEdge hinv hinv' (busyEdge_of_step hinv hidle hrst hstep) h

end Sys2Proof.Machine
